-- ==== Sys2Proof/Word.lean ====
section
/-!
DEFINITION. The words of CORE: 64-bit registers, addresses and ALU values (spec 00_scope.md R5, R7:
`XLEN` = `PCLEN` = 64), 8-bit bytes (20_memory.md R61), 32-bit instruction and backing-memory words
(R5 `ILEN`, 20_memory.md R60) and 5-bit register indices (R5 `NREG` = 32). Arithmetic on all of them
wraps (R7), which is `BitVec` arithmetic.
-/

namespace Sys2Proof

/-- A register value, an address, an ALU operand or an ALU result (R7): 64 bits, wrapping. -/
abbrev Word := BitVec 64

/-- One byte (20_memory.md R61). -/
abbrev Byte := BitVec 8

/-- One word of backing memory, or one instruction (20_memory.md R60, 30_encoding.md R90). -/
abbrev Word32 := BitVec 32

/-- A register index, 0 to 31 (00_scope.md R5 `NREG`). -/
abbrev Reg := BitVec 5

end Sys2Proof
end

