-- ==== Sys2Proof/Syntax.lean ====
section
/-!
DEFINITION. The instructions of the reference decoder `REFDEC`, one constructor per row of
spec/opcode_table.json (47_refdec_instructions.md R260 to R294). The operands are the fields of the
encoding, already pulled apart; a shift holds its true amount, not `immr` and `imms`
(30_encoding.md R93). `CMP` and `CMPI` are `subs` and `subis` with `rd = 31` (30_encoding.md R104).
-/

namespace Sys2Proof

/-- An instruction of CORE with the decoder `REFDEC`. -/
inductive Instr where
  /-- `ADD Xd, Xn, Xm` (R260). -/
  | add (rd rn rm : Reg)
  /-- `ADDS Xd, Xn, Xm` (R261). -/
  | adds (rd rn rm : Reg)
  /-- `SUB Xd, Xn, Xm` (R262). -/
  | sub (rd rn rm : Reg)
  /-- `SUBS Xd, Xn, Xm`, and `CMP Xn, Xm` when `rd = 31` (R263). -/
  | subs (rd rn rm : Reg)
  /-- `AND Xd, Xn, Xm` (R264). -/
  | and (rd rn rm : Reg)
  /-- `ANDS Xd, Xn, Xm` (R265). -/
  | ands (rd rn rm : Reg)
  /-- `ORR Xd, Xn, Xm` (R266). -/
  | orr (rd rn rm : Reg)
  /-- `EOR Xd, Xn, Xm` (R267). -/
  | eor (rd rn rm : Reg)
  /-- `MUL Xd, Xn, Xm` (R268). -/
  | mul (rd rn rm : Reg)
  /-- `ADDI Xd, Xn, #imm12` (R269). -/
  | addi (rd rn : Reg) (imm12 : BitVec 12)
  /-- `ADDIS Xd, Xn, #imm12` (R270). -/
  | addis (rd rn : Reg) (imm12 : BitVec 12)
  /-- `SUBI Xd, Xn, #imm12` (R271). -/
  | subi (rd rn : Reg) (imm12 : BitVec 12)
  /-- `SUBIS Xd, Xn, #imm12`, and `CMPI Xn, #imm12` when `rd = 31` (R272). -/
  | subis (rd rn : Reg) (imm12 : BitVec 12)
  /-- `LSL Xd, Xn, #shift`, `shift` in 1..63 (R273). -/
  | lsl (rd rn : Reg) (shift : BitVec 6)
  /-- `LSR Xd, Xn, #shift`, `shift` in 0..63 (R274). -/
  | lsr (rd rn : Reg) (shift : BitVec 6)
  /-- `LDUR Xt, [Xn, #simm9]`, 8 bytes (R275). -/
  | ldur (rt rn : Reg) (simm9 : BitVec 9)
  /-- `LDURW Xt, [Xn, #simm9]`, 4 bytes (R276). -/
  | ldurw (rt rn : Reg) (simm9 : BitVec 9)
  /-- `LDURH Xt, [Xn, #simm9]`, 2 bytes (R277). -/
  | ldurh (rt rn : Reg) (simm9 : BitVec 9)
  /-- `LDURB Xt, [Xn, #simm9]`, 1 byte (R278). -/
  | ldurb (rt rn : Reg) (simm9 : BitVec 9)
  /-- `STUR Xt, [Xn, #simm9]`, 8 bytes (R279). -/
  | stur (rt rn : Reg) (simm9 : BitVec 9)
  /-- `STURW Xt, [Xn, #simm9]`, 4 bytes (R280). -/
  | sturw (rt rn : Reg) (simm9 : BitVec 9)
  /-- `STURH Xt, [Xn, #simm9]`, 2 bytes (R281). -/
  | sturh (rt rn : Reg) (simm9 : BitVec 9)
  /-- `STURB Xt, [Xn, #simm9]`, 1 byte (R282). -/
  | sturb (rt rn : Reg) (simm9 : BitVec 9)
  /-- `MOVZ Xd, #imm16, LSL #(16*hw)` (R283). -/
  | movz (rd : Reg) (hw : BitVec 2) (imm16 : BitVec 16)
  /-- `B label`, `imm26` in units of instructions (R284). -/
  | b (imm26 : BitVec 26)
  /-- `B.EQ label` (R285). -/
  | bEq (imm19 : BitVec 19)
  /-- `B.NE label` (R286). -/
  | bNe (imm19 : BitVec 19)
  /-- `B.GE label` (R287). -/
  | bGe (imm19 : BitVec 19)
  /-- `B.LT label` (R288). -/
  | bLt (imm19 : BitVec 19)
  /-- `B.GT label` (R289). -/
  | bGt (imm19 : BitVec 19)
  /-- `B.LE label` (R290). -/
  | bLe (imm19 : BitVec 19)
  /-- `CBZ Xt, label` (R291). -/
  | cbz (rt : Reg) (imm19 : BitVec 19)
  /-- `CBNZ Xt, label` (R292). -/
  | cbnz (rt : Reg) (imm19 : BitVec 19)
  /-- `HLT #imm16`; the immediate is ignored (R293). -/
  | hlt (imm16 : BitVec 16)
  /-- `NOP` (R294). -/
  | nop
deriving DecidableEq, Repr

end Sys2Proof
end

