-- ==== Sys2Proof/WellFormed.lean ====
section
/-!
DEFINITION. Which terms of `Instr` are instructions. Every operand has the width of its field, so
the one thing left to check is the shift amount of `LSL`: "`s = 0` has no `LSL` encoding"
(47_refdec_instructions.md R273).
-/

namespace Sys2Proof

/-- The shift amount of `LSL` is 1..63 (R273); every other term is an instruction. -/
def Instr.wellFormed : Instr → Bool
  | .lsl _ _ shift => shift != 0
  | .add _ _ _ | .adds _ _ _ | .sub _ _ _ | .subs _ _ _ | .and _ _ _ | .ands _ _ _
  | .orr _ _ _ | .eor _ _ _ | .mul _ _ _ => true
  | .addi _ _ _ | .addis _ _ _ | .subi _ _ _ | .subis _ _ _ => true
  | .lsr _ _ _ => true
  | .ldur _ _ _ | .ldurw _ _ _ | .ldurh _ _ _ | .ldurb _ _ _ => true
  | .stur _ _ _ | .sturw _ _ _ | .sturh _ _ _ | .sturb _ _ _ => true
  | .movz _ _ _ => true
  | .b _ | .bEq _ | .bNe _ | .bGe _ | .bLt _ | .bGt _ | .bLe _ | .cbz _ _ | .cbnz _ _ => true
  | .hlt _ | .nop => true

end Sys2Proof
end

