-- ==== Sys2Proof/Decode.lean ====
section
/-!
DEFINITION. The reference decoder `REFDEC` (30_encoding.md Part B, R90 to R105), from instruction
words and from bytes, total and rejecting by name; after it the encoder, written from the same
format tables, and the opcode map of R101 as a list of match and mask rows.
-/

namespace Sys2Proof

/-- Why a word (or a run of bytes) is no instruction. For CORE every rejected word is `INVALID`
(30_encoding.md R102); the names only say which rule rejects it. -/
inductive Reject where
  /-- Fewer than four bytes stand there (R90: every instruction is 32 bits). -/
  | tooFewBytes
  /-- The `UBFM` form is neither `LSL` nor `LSR` (R93). -/
  | shiftForm
  /-- The condition of a conditional branch is not one of R97's six. -/
  | branchCondition
  /-- No pattern of R101 matches the word (R102). -/
  | unmatched
deriving DecidableEq, Repr

/-! ## Fields (R90 to R99) -/

/-- `word[31:21]`, the opcode of the R, D and system formats (R91, R95, R99). -/
def opcode11 (w : Word32) : BitVec 11 := w.extractLsb' 21 11

/-- `word[31:22]`, the opcode of the I and shift formats (R92, R93). -/
def opcode10 (w : Word32) : BitVec 10 := w.extractLsb' 22 10

/-- `word[31:23]`, the opcode of the IW format (R94). -/
def opcode9 (w : Word32) : BitVec 9 := w.extractLsb' 23 9

/-- `word[31:24]`, the opcode of the conditional and compare-and-branch formats (R97, R98). -/
def opcode8 (w : Word32) : BitVec 8 := w.extractLsb' 24 8

/-- `word[31:26]`, the opcode of the B format (R96). -/
def opcode6 (w : Word32) : BitVec 6 := w.extractLsb' 26 6

/-- `Rd` (and `Rt`) = `word[4:0]` (R90). -/
def fieldRd (w : Word32) : Reg := w.extractLsb' 0 5

/-- `Rn` = `word[9:5]` (R90). -/
def fieldRn (w : Word32) : Reg := w.extractLsb' 5 5

/-- `Rm` = `word[20:16]` (R90). -/
def fieldRm (w : Word32) : Reg := w.extractLsb' 16 5

/-- `shamt` of the R format and `imms` of the shift format, `word[15:10]` (R91, R93). -/
def fieldShamt (w : Word32) : BitVec 6 := w.extractLsb' 10 6

/-- `immr` = `word[21:16]` (R93). -/
def fieldImmr (w : Word32) : BitVec 6 := w.extractLsb' 16 6

/-- `imm12` = `word[21:10]` (R92). -/
def fieldImm12 (w : Word32) : BitVec 12 := w.extractLsb' 10 12

/-- `imm9` = `word[20:12]` (R95). -/
def fieldImm9 (w : Word32) : BitVec 9 := w.extractLsb' 12 9

/-- `word[11:10]`, which must be `00` in the D format (R95). -/
def fieldOp2 (w : Word32) : BitVec 2 := w.extractLsb' 10 2

/-- `hw` = `word[22:21]` (R94). -/
def fieldHw (w : Word32) : BitVec 2 := w.extractLsb' 21 2

/-- `imm16` = `word[20:5]` (R94, R99). -/
def fieldImm16 (w : Word32) : BitVec 16 := w.extractLsb' 5 16

/-- `imm26` = `word[25:0]` (R96). -/
def fieldImm26 (w : Word32) : BitVec 26 := w.extractLsb' 0 26

/-- `imm19` = `word[23:5]` (R97, R98). -/
def fieldImm19 (w : Word32) : BitVec 19 := w.extractLsb' 5 19

/-! ## REFDEC, format by format, in the order of R101 -/

/-- R-format: register ALU (R91). -/
def decodeR (w : Word32) : Option Instr :=
  if fieldShamt w = 0 then
    if opcode11 w = 0x458 then some (.add (fieldRd w) (fieldRn w) (fieldRm w))
    else if opcode11 w = 0x558 then some (.adds (fieldRd w) (fieldRn w) (fieldRm w))
    else if opcode11 w = 0x658 then some (.sub (fieldRd w) (fieldRn w) (fieldRm w))
    else if opcode11 w = 0x758 then some (.subs (fieldRd w) (fieldRn w) (fieldRm w))
    else if opcode11 w = 0x450 then some (.and (fieldRd w) (fieldRn w) (fieldRm w))
    else if opcode11 w = 0x550 then some (.orr (fieldRd w) (fieldRn w) (fieldRm w))
    else if opcode11 w = 0x650 then some (.eor (fieldRd w) (fieldRn w) (fieldRm w))
    else if opcode11 w = 0x750 then some (.ands (fieldRd w) (fieldRn w) (fieldRm w))
    else none
  else if fieldShamt w = 0x1F then
    if opcode11 w = 0x4D8 then some (.mul (fieldRd w) (fieldRn w) (fieldRm w)) else none
  else none

/-- I-format: immediate ALU (R92). -/
def decodeI (w : Word32) : Option Instr :=
  if opcode10 w = 0x244 then some (.addi (fieldRd w) (fieldRn w) (fieldImm12 w))
  else if opcode10 w = 0x2C4 then some (.addis (fieldRd w) (fieldRn w) (fieldImm12 w))
  else if opcode10 w = 0x344 then some (.subi (fieldRd w) (fieldRn w) (fieldImm12 w))
  else if opcode10 w = 0x3C4 then some (.subis (fieldRd w) (fieldRn w) (fieldImm12 w))
  else none

/-- Shift-immediate format (R93): `imms = 63` is `LSR` by `immr`; else `immr = (imms + 1) mod 64` is
`LSL` by `63 - imms`. -/
def decodeShift (w : Word32) : Option Instr :=
  if opcode10 w = 0x34D then
    if fieldShamt w = 63 then some (.lsr (fieldRd w) (fieldRn w) (fieldImmr w))
    else if fieldImmr w = fieldShamt w + 1 then
      some (.lsl (fieldRd w) (fieldRn w) (63 - fieldShamt w))
    else none
  else none

/-- IW-format: wide immediate move (R94). -/
def decodeIW (w : Word32) : Option Instr :=
  if opcode9 w = 0x1A5 then some (.movz (fieldRd w) (fieldHw w) (fieldImm16 w)) else none

/-- D-format: load and store (R95). -/
def decodeD (w : Word32) : Option Instr :=
  if fieldOp2 w = 0 then
    if opcode11 w = 0x7C2 then some (.ldur (fieldRd w) (fieldRn w) (fieldImm9 w))
    else if opcode11 w = 0x7C0 then some (.stur (fieldRd w) (fieldRn w) (fieldImm9 w))
    else if opcode11 w = 0x5C2 then some (.ldurw (fieldRd w) (fieldRn w) (fieldImm9 w))
    else if opcode11 w = 0x5C0 then some (.sturw (fieldRd w) (fieldRn w) (fieldImm9 w))
    else if opcode11 w = 0x3C2 then some (.ldurh (fieldRd w) (fieldRn w) (fieldImm9 w))
    else if opcode11 w = 0x3C0 then some (.sturh (fieldRd w) (fieldRn w) (fieldImm9 w))
    else if opcode11 w = 0x1C2 then some (.ldurb (fieldRd w) (fieldRn w) (fieldImm9 w))
    else if opcode11 w = 0x1C0 then some (.sturb (fieldRd w) (fieldRn w) (fieldImm9 w))
    else none
  else none

/-- B-format: unconditional branch (R96). -/
def decodeB (w : Word32) : Option Instr :=
  if opcode6 w = 0x05 then some (.b (fieldImm26 w)) else none

/-- Conditional-branch format (R97): bit 4 is 0, and `cond` is `word[3:0]`. -/
def decodeBcond (w : Word32) : Option Instr :=
  if opcode8 w = 0x54 then
    if fieldRd w = 0x00 then some (.bEq (fieldImm19 w))
    else if fieldRd w = 0x01 then some (.bNe (fieldImm19 w))
    else if fieldRd w = 0x0A then some (.bGe (fieldImm19 w))
    else if fieldRd w = 0x0B then some (.bLt (fieldImm19 w))
    else if fieldRd w = 0x0C then some (.bGt (fieldImm19 w))
    else if fieldRd w = 0x0D then some (.bLe (fieldImm19 w))
    else none
  else none

/-- Compare-and-branch format (R98). -/
def decodeCB (w : Word32) : Option Instr :=
  if opcode8 w = 0xB4 then some (.cbz (fieldRd w) (fieldImm19 w))
  else if opcode8 w = 0xB5 then some (.cbnz (fieldRd w) (fieldImm19 w))
  else none

/-- `IsHalt(w)` of `REFDEC` (R87, R99). -/
def refIsHalt (w : Word32) : Bool := (w &&& 0xFFE0001F) == 0xD4400000

/-- The word of `NOP` (R99). -/
def nopWord : Word32 := 0xD503201F

/-- System format: `HLT` and `NOP` (R99). -/
def decodeSystem (w : Word32) : Option Instr :=
  if opcode11 w = 0x6A2 ∧ fieldRd w = 0 then some (.hlt (fieldImm16 w))
  else if w = nopWord then some .nop
  else none

/-- The first format that takes the word, in the order of R101. -/
def decodeMatch (w : Word32) : Option Instr :=
  decodeR w <|> decodeI w <|> decodeShift w <|> decodeIW w <|> decodeD w <|> decodeB w <|>
    decodeBcond w <|> decodeCB w <|> decodeSystem w

/-- Which rule makes an undecodable word `INVALID` (R102). -/
def rejectReason (w : Word32) : Reject :=
  if opcode10 w = 0x34D then .shiftForm
  else if opcode8 w = 0x54 then .branchCondition
  else .unmatched

/-- `REFDEC` on one word (R101): an instruction, or `INVALID` with the reason. -/
def decodeWord (w : Word32) : Except Reject Instr :=
  match decodeMatch w with
  | some i => .ok i
  | none => .error (rejectReason w)

/-- Four bytes as one little-endian word, the first at the lowest address (R90, 20_memory.md R63). -/
def wordOfBytes (b0 b1 b2 b3 : Byte) : Word32 := b3 ++ b2 ++ b1 ++ b0

/-- The decoder on bytes: the first instruction and the bytes after it. -/
def decodeBytes : List Byte → Except Reject (Instr × List Byte)
  | b0 :: b1 :: b2 :: b3 :: rest => (decodeWord (wordOfBytes b0 b1 b2 b3)).map (·, rest)
  | _ => .error .tooFewBytes

/-- The bytes in memory order of an instruction whose bits are `w`, bit 0 the least significant bit
of its word; a bit at or above `nbits` is 0. -/
def tableBytes (nbits w : Nat) : List Byte :=
  (List.range 4).map fun i => BitVec.ofNat 8 (w % 2 ^ nbits / 256 ^ i)

/-- The instruction word whose bits are `w`, every bit at or above `nbits` being 0. -/
def tableWord (nbits w : Nat) : Word32 := BitVec.ofNat 32 (w % 2 ^ nbits)

/-- The instruction the decoder reads from a row's bits, numbered as spec/opcode_table.json numbers
them. -/
def decodeTableWord (nbits w : Nat) : Option Instr :=
  match decodeBytes (tableBytes nbits w) with
  | .ok (i, _) => some i
  | .error _ => none

/-! ## The encoder -/

/-- R91: `opcode11 Rm shamt Rn Rd`. -/
def encodeR (op : BitVec 11) (shamt : BitVec 6) (rd rn rm : Reg) : Word32 :=
  op ++ rm ++ shamt ++ rn ++ rd

/-- R92: `opcode10 imm12 Rn Rd`. -/
def encodeI (op : BitVec 10) (rd rn : Reg) (imm12 : BitVec 12) : Word32 := op ++ imm12 ++ rn ++ rd

/-- R93: `0x34D immr imms Rn Rd`. -/
def encodeShift (rd rn : Reg) (immr imms : BitVec 6) : Word32 := 0x34D#10 ++ immr ++ imms ++ rn ++ rd

/-- R95: `opcode11 imm9 00 Rn Rt`. -/
def encodeD (op : BitVec 11) (rt rn : Reg) (imm9 : BitVec 9) : Word32 := op ++ imm9 ++ 0#2 ++ rn ++ rt

/-- R97, R98: `opcode8 imm19` and five low bits (`0 cond`, or `Rt`). -/
def encodeCB (op : BitVec 8) (low : BitVec 5) (imm19 : BitVec 19) : Word32 := op ++ imm19 ++ low

/-- The word of a well-formed instruction (30_encoding.md R91 to R99). -/
def encode : Instr → Word32
  | .add rd rn rm => encodeR 0x458 0 rd rn rm
  | .adds rd rn rm => encodeR 0x558 0 rd rn rm
  | .sub rd rn rm => encodeR 0x658 0 rd rn rm
  | .subs rd rn rm => encodeR 0x758 0 rd rn rm
  | .and rd rn rm => encodeR 0x450 0 rd rn rm
  | .ands rd rn rm => encodeR 0x750 0 rd rn rm
  | .orr rd rn rm => encodeR 0x550 0 rd rn rm
  | .eor rd rn rm => encodeR 0x650 0 rd rn rm
  | .mul rd rn rm => encodeR 0x4D8 0x1F rd rn rm
  | .addi rd rn imm => encodeI 0x244 rd rn imm
  | .addis rd rn imm => encodeI 0x2C4 rd rn imm
  | .subi rd rn imm => encodeI 0x344 rd rn imm
  | .subis rd rn imm => encodeI 0x3C4 rd rn imm
  | .lsl rd rn shift => encodeShift rd rn (-shift) (63 - shift)
  | .lsr rd rn shift => encodeShift rd rn shift 63
  | .ldur rt rn imm => encodeD 0x7C2 rt rn imm
  | .ldurw rt rn imm => encodeD 0x5C2 rt rn imm
  | .ldurh rt rn imm => encodeD 0x3C2 rt rn imm
  | .ldurb rt rn imm => encodeD 0x1C2 rt rn imm
  | .stur rt rn imm => encodeD 0x7C0 rt rn imm
  | .sturw rt rn imm => encodeD 0x5C0 rt rn imm
  | .sturh rt rn imm => encodeD 0x3C0 rt rn imm
  | .sturb rt rn imm => encodeD 0x1C0 rt rn imm
  | .movz rd hw imm => 0x1A5#9 ++ hw ++ imm ++ rd
  | .b imm => 0x05#6 ++ imm
  | .bEq imm => encodeCB 0x54 0x00 imm
  | .bNe imm => encodeCB 0x54 0x01 imm
  | .bGe imm => encodeCB 0x54 0x0A imm
  | .bLt imm => encodeCB 0x54 0x0B imm
  | .bGt imm => encodeCB 0x54 0x0C imm
  | .bLe imm => encodeCB 0x54 0x0D imm
  | .cbz rt imm => encodeCB 0xB4 rt imm
  | .cbnz rt imm => encodeCB 0xB5 rt imm
  | .hlt imm => 0x6A2#11 ++ imm ++ 0#5
  | .nop => nopWord

/-! ## The opcode map as match and mask (R101, 47_refdec_instructions.md) -/

/-- One row of the opcode map: a word `w` fits it when `w AND mask = pattern`. -/
structure OpcodeRow where
  pattern : Word32
  mask : Word32
deriving DecidableEq, Repr

/-- The word fits the row. -/
def OpcodeRow.fits (r : OpcodeRow) (w : Word32) : Bool := (w &&& r.mask) == r.pattern

/-- The patterns of R101, in its order. -/
def opcodeMap : List OpcodeRow :=
  [⟨0x8B000000, 0xFFE0FC00⟩, ⟨0xAB000000, 0xFFE0FC00⟩, ⟨0xCB000000, 0xFFE0FC00⟩,
   ⟨0xEB000000, 0xFFE0FC00⟩, ⟨0x8A000000, 0xFFE0FC00⟩, ⟨0xAA000000, 0xFFE0FC00⟩,
   ⟨0xCA000000, 0xFFE0FC00⟩, ⟨0xEA000000, 0xFFE0FC00⟩, ⟨0x9B007C00, 0xFFE0FC00⟩,
   ⟨0x91000000, 0xFFC00000⟩, ⟨0xB1000000, 0xFFC00000⟩, ⟨0xD1000000, 0xFFC00000⟩,
   ⟨0xF1000000, 0xFFC00000⟩, ⟨0xD3400000, 0xFFC00000⟩, ⟨0xD2800000, 0xFF800000⟩,
   ⟨0xF8400000, 0xFFE00C00⟩, ⟨0xF8000000, 0xFFE00C00⟩, ⟨0xB8400000, 0xFFE00C00⟩,
   ⟨0xB8000000, 0xFFE00C00⟩, ⟨0x78400000, 0xFFE00C00⟩, ⟨0x78000000, 0xFFE00C00⟩,
   ⟨0x38400000, 0xFFE00C00⟩, ⟨0x38000000, 0xFFE00C00⟩, ⟨0x14000000, 0xFC000000⟩,
   ⟨0x54000000, 0xFF000010⟩, ⟨0xB4000000, 0xFF000000⟩, ⟨0xB5000000, 0xFF000000⟩,
   ⟨0xD4400000, 0xFFE0001F⟩, ⟨0xD503201F, 0xFFFFFFFF⟩]

/-- The row of spec/opcode_table.json an instruction stands for (R260 to R294). -/
def Instr.row : Instr → OpcodeRow
  | .add _ _ _ => ⟨0x8B000000, 0xFFE0FC00⟩
  | .adds _ _ _ => ⟨0xAB000000, 0xFFE0FC00⟩
  | .sub _ _ _ => ⟨0xCB000000, 0xFFE0FC00⟩
  | .subs _ _ _ => ⟨0xEB000000, 0xFFE0FC00⟩
  | .and _ _ _ => ⟨0x8A000000, 0xFFE0FC00⟩
  | .ands _ _ _ => ⟨0xEA000000, 0xFFE0FC00⟩
  | .orr _ _ _ => ⟨0xAA000000, 0xFFE0FC00⟩
  | .eor _ _ _ => ⟨0xCA000000, 0xFFE0FC00⟩
  | .mul _ _ _ => ⟨0x9B007C00, 0xFFE0FC00⟩
  | .addi _ _ _ => ⟨0x91000000, 0xFFC00000⟩
  | .addis _ _ _ => ⟨0xB1000000, 0xFFC00000⟩
  | .subi _ _ _ => ⟨0xD1000000, 0xFFC00000⟩
  | .subis _ _ _ => ⟨0xF1000000, 0xFFC00000⟩
  | .lsl _ _ _ => ⟨0xD3400000, 0xFFC00000⟩
  | .lsr _ _ _ => ⟨0xD340FC00, 0xFFC0FC00⟩
  | .ldur _ _ _ => ⟨0xF8400000, 0xFFE00C00⟩
  | .ldurw _ _ _ => ⟨0xB8400000, 0xFFE00C00⟩
  | .ldurh _ _ _ => ⟨0x78400000, 0xFFE00C00⟩
  | .ldurb _ _ _ => ⟨0x38400000, 0xFFE00C00⟩
  | .stur _ _ _ => ⟨0xF8000000, 0xFFE00C00⟩
  | .sturw _ _ _ => ⟨0xB8000000, 0xFFE00C00⟩
  | .sturh _ _ _ => ⟨0x78000000, 0xFFE00C00⟩
  | .sturb _ _ _ => ⟨0x38000000, 0xFFE00C00⟩
  | .movz _ _ _ => ⟨0xD2800000, 0xFF800000⟩
  | .b _ => ⟨0x14000000, 0xFC000000⟩
  | .bEq _ => ⟨0x54000000, 0xFF00001F⟩
  | .bNe _ => ⟨0x54000001, 0xFF00001F⟩
  | .bGe _ => ⟨0x5400000A, 0xFF00001F⟩
  | .bLt _ => ⟨0x5400000B, 0xFF00001F⟩
  | .bGt _ => ⟨0x5400000C, 0xFF00001F⟩
  | .bLe _ => ⟨0x5400000D, 0xFF00001F⟩
  | .cbz _ _ => ⟨0xB4000000, 0xFF000000⟩
  | .cbnz _ _ => ⟨0xB5000000, 0xFF000000⟩
  | .hlt _ => ⟨0xD4400000, 0xFFE0001F⟩
  | .nop => ⟨0xD503201F, 0xFFFFFFFF⟩

end Sys2Proof
end

