-- ==== Sys2Proof/Machine/Control.lean ====
section
/-!
DEFINITION. The enumerations and control bundles the pipeline carries (30_encoding.md Part A,
10_state.md R30 to R32) and the record the decoder service answers (30_encoding.md R86). The numeric
codes of the enumerations are functions in Machine/Operands.lean: no rule depends on a number
(92_eei_decisions.md D23).
-/

namespace Sys2Proof.Machine

/-- The category tag of an inter-stage register (R80). -/
inductive Kind where
  | operate | dataMove | control | other | invalid | dataBubble | controlBubble | memBubble
deriving DecidableEq, Repr

/-- `ex.alu_src`, the second ALU operand (R81). -/
inductive AluSrc where
  | reg | imm
deriving DecidableEq, Repr

/-- `ex.alu_op` (R82). -/
inductive AluOp where
  | add | sub | and | or | xor | shl | shr | mul | cmp
deriving DecidableEq, Repr

/-- `ex.br_kind` (R83). -/
inductive BrKind where
  | none | uncond | cond | cbz | cbnz
deriving DecidableEq, Repr

/-- `ex.cc` (R83). -/
inductive Cc where
  | eq | ne | lt | ge | gt | le
deriving DecidableEq, Repr

/-- `mem.width` (R84): 1, 2, 4 or 8 bytes. -/
inductive Width where
  | b1 | b2 | b4 | b8
deriving DecidableEq, Repr

/-- `layout`, which tells the source slots an instruction needs (R85). -/
inductive Layout where
  | none | r | i | load | store | b | cb
deriving DecidableEq, Repr

/-- Execute-control bundle (10_state.md R30). -/
structure ExCtl where
  aluSrc : AluSrc
  aluOp : AluOp
  brKind : BrKind
  cc : Cc
deriving DecidableEq, Repr

/-- Memory-control bundle (10_state.md R31). -/
structure MemCtl where
  isBranch : Bool
  condMet : Bool
  memRead : Bool
  memWrite : Bool
  width : Width
deriving DecidableEq, Repr

/-- Writeback-control bundle (10_state.md R32). -/
structure WbCtl where
  regWrite : Bool
  memToReg : Bool
  flagsUpdate : Bool
deriving DecidableEq, Repr

/-- What the decoder service answers for a word (30_encoding.md R86). -/
structure Decoded where
  kind : Kind
  layout : Layout
  srcA : Reg
  srcB : Reg
  dst : Reg
  imm : Word
  offset : Word
  ex : ExCtl
  mem : MemCtl
  wb : WbCtl
deriving DecidableEq, Repr

/-- The two caches (10_state.md R42): `IC` for instruction fetch, `DC` for loads and stores. -/
inductive CacheId where
  | ic | dc
deriving DecidableEq, Repr

end Sys2Proof.Machine
end

