-- ==== Sys2Proof/Config.lean ====
section
/-!
DEFINITION. The parameters of CORE that the spec leaves OPEN (00_scope.md R5): the model's
operations take them as an argument. Their default values stand in Machine/Params.lean.
No result of CORE is undefined, so no free value (an opaque constant) is needed here.
-/

namespace Sys2Proof

/-- The open parameters of 00_scope.md R5: the entry address and the geometry of the two caches.
The decoder service, open as well, is `Machine.DecoderService`. -/
structure Params where
  /-- `ENTRY_PC`: the value of `PC` after `Initialize`. -/
  entryPC : Word
  /-- `BLOCK`: bytes in a cache block, the same in both caches. -/
  block : Nat
  /-- `I_SETS`: sets of the instruction cache. -/
  iSets : Nat
  /-- `I_WAYS`: ways of the instruction cache. -/
  iWays : Nat
  /-- `D_SETS`: sets of the data cache. -/
  dSets : Nat
  /-- `D_WAYS`: ways of the data cache. -/
  dWays : Nat
deriving DecidableEq, Repr

/-- The constraints the spec puts on the open parameters (00_scope.md R5, 92_eei_decisions.md D5):
`BLOCK` a power of two, a multiple of 4 and at least 8, set counts powers of two, at least one way,
`ENTRY_PC` a multiple of 4 (20_memory.md R66). That a block and the sets fit in the 64-bit address
space (20_memory.md R61) is written as the bound on the exponent. -/
def Params.legal (p : Params) : Prop :=
  (∃ k, 3 ≤ k ∧ k ≤ 64 ∧ p.block = 2 ^ k) ∧ (∃ k, p.iSets = 2 ^ k) ∧ (∃ k, p.dSets = 2 ^ k) ∧
    0 < p.iWays ∧ 0 < p.dWays ∧ p.entryPC.toNat % 4 = 0

end Sys2Proof
end

