-- ==== Sys2Proof/Machine/Params.lean ====
section
/-!
DEFINITION. The values this hardware takes for the parameters of 00_scope.md R5: the defaults of the
OPEN ones, and the fixed ones that a rule names.
-/

namespace Sys2Proof.Machine

/-- The default values of the open parameters (00_scope.md R5, 92_eei_decisions.md D3, D5;
DESIGN CHOICE, log entry 6). -/
def defaultParams : Params where
  entryPC := 0x400000
  block := 32
  iSets := 64
  iWays := 4
  dSets := 256
  dWays := 8

/-- `MISS_LATENCY`: the countdown given to a new miss query, both caches (00_scope.md R5,
40_cache.md R113; 90_conflicts.md C8). -/
def missLatency : Nat := 10

/-- `ZR`: the index of the hard-wired zero register (10_state.md R21). -/
def zeroReg : Reg := 31

end Sys2Proof.Machine
end

