-- ==== Sys2Proof/Machine/State.lean ====
section
/-!
DEFINITION. The state of CORE (10_state.md): architectural state, gating flags, status, counters, the
four inter-stage registers and the checkpoint, the predictor, the two caches with their query lists,
the timestamp counter and the backing memory; and its value after reset (10_state.md R47).
Everything is plain data.

Sparse tables. A table with a default is a list of (index, entry) pairs with the indices strictly
rising; an index that is not listed holds the default. For the backing memory and the pattern history
table the default is the value 0 and no entry equals it. For the branch-target buffer and the cache
lines an unlisted index is an entry whose `valid` bit is 0: its other fields, which the spec leaves
unspecified, do not exist (10_state.md R47, 93_implementation_defined.md U2).
-/

namespace Sys2Proof.Machine

/-- Nothing in CORE ends a step with a fault of the host's interface: a fatal fault of the spec is a
value of `STATUS` that the next state holds (60_exceptions.md R301), every 64-bit address exists
(20_memory.md R70), and every value is stated. So nobody raises a `Fault`, and it has no constructor
(safe: it adds no behaviour). -/
inductive Fault
deriving DecidableEq, Repr

/-- Why a step gives no meaning. -/
inductive Refusal where
  /-- An arm of `exec` whose instruction has no meaning yet; raised by `exec` alone (safe: the model
  stops). Every instruction of this model has its meaning, so no arm raises it. -/
  | notModelled (mnemonic : String)
deriving DecidableEq, Repr

/-- A fatal fault: its code and what `info` records (60_exceptions.md R302). -/
inductive FatalInfo where
  /-- Code 1, raised by Decode: the instruction bits and their address. -/
  | decodeFault (word : Word32) (pc : Word)
  /-- Code 2, raised by a cache access that crosses a block boundary: its address. -/
  | blockCross (addr : Word)
  /-- Code 3, raised by the tick for a query whose countdown is already 0: its block base. -/
  | negCountdown (base : Word)
  /-- Code 4, raised when a query would be made for a block that already has one: the block base. -/
  | dupQuery (base : Word)
  /-- Code 5: a cache argument that is no cache. `CacheId` has the two caches only, so nothing raises
  it (60_exceptions.md R303). -/
  | badCacheHandle
deriving DecidableEq, Repr

/-- `STATUS` (10_state.md R25). -/
inductive Status where
  | running
  | halted
  | fatal (info : FatalInfo)
deriving DecidableEq, Repr

/-- `IFDE` (10_state.md R28), written by Fetch, read by Decode. -/
structure IfDe where
  valid : Bool
  memStall : Bool
  squash : Bool
  flush : Bool
  word : Word32
  pc : Word
  z : Bool
  n : Bool
  predTaken : Bool
  predNext : Word
deriving DecidableEq, Repr

/-- `DEEX` (10_state.md R29), written by Decode and patched by the hazard unit, read by Execute. -/
structure DeEx where
  valid : Bool
  kind : Kind
  pc : Word
  z : Bool
  n : Bool
  flagsFwd : Bool
  predTaken : Bool
  predNext : Word
  layout : Layout
  srcA : Reg
  srcB : Reg
  dst : Reg
  valA : Word
  valB : Word
  imm : Word
  offset : Word
  ex : ExCtl
  mem : MemCtl
  wb : WbCtl
deriving DecidableEq, Repr

/-- `EXMEM` (10_state.md R33), written by Execute, read by Memory and the hazard unit. -/
structure ExMem where
  valid : Bool
  kind : Kind
  pc : Word
  aluResult : Word
  storeData : Word
  dst : Reg
  mem : MemCtl
  wb : WbCtl
  newZ : Bool
  newN : Bool
deriving DecidableEq, Repr

/-- `MEMWB` (10_state.md R34), written by Memory, read by Writeback and the hazard unit. -/
structure MemWb where
  valid : Bool
  kind : Kind
  pc : Word
  aluResult : Word
  memData : Word
  dst : Reg
  wb : WbCtl
  newZ : Bool
  newN : Bool
deriving DecidableEq, Repr

/-- A valid entry of the branch-target buffer (10_state.md R41). -/
structure BtbEntry where
  tag : Word
  isCond : Bool
  target : Word
deriving DecidableEq, Repr

/-- The branch predictor (10_state.md R39 to R41). -/
structure Predictor where
  /-- `GHR`, bit 0 the most recent outcome. -/
  ghr : BitVec 8
  /-- `PHT[0..255]`, 2-bit counters; an unlisted entry is 0. -/
  pht : List (Nat × BitVec 2)
  /-- `BTB[0..1023]`; an unlisted entry has `valid = 0`. -/
  btb : List (Nat × BtbEntry)
deriving DecidableEq, Repr

/-- A valid cache line (10_state.md R42). -/
structure Line where
  /-- The full block number. -/
  tag : Nat
  /-- The last-used timestamp. -/
  stamp : Nat
  /-- `bytes[0..BLOCK-1]`. -/
  bytes : List Byte
deriving DecidableEq, Repr

/-- An outstanding miss (10_state.md R44): the block base and the countdown of remaining cycles. -/
structure Query where
  base : Word
  rem : Nat
deriving DecidableEq, Repr

/-- A cache (10_state.md R42, R44): way `w` of set `s` is index `s * WAYS + w` of `lines`; an unlisted
line has `valid = 0` and `stamp = 0`. The query list is oldest first. -/
structure Cache where
  lines : List (Nat × Line)
  queries : List Query
deriving DecidableEq, Repr

/-- The backing memory (20_memory.md R60), byte by byte. -/
abbrev Memory := List Host.Cell

/-- The state of CORE (10_state.md). -/
structure State where
  /-- `x[0]` to `x[30]` (R20); `x[31]` is hard-wired (R21). -/
  regs : Vector Word 31
  /-- `PC` (R22). -/
  pc : Word
  /-- `Z` (R23). -/
  z : Bool
  /-- `N` (R23). -/
  n : Bool
  /-- `control_stalled` (R24). -/
  controlStalled : Bool
  /-- `data_stalled` (R24). -/
  dataStalled : Bool
  /-- `dcache_stalled` (R24). -/
  dcacheStalled : Bool
  /-- `FE_halted` (R24). -/
  feHalted : Bool
  /-- `DE_halted` (R24). -/
  deHalted : Bool
  /-- `EX_halted` (R24). -/
  exHalted : Bool
  /-- `MEM_halted` (R24). -/
  memHalted : Bool
  /-- `STATUS` (R25). -/
  status : Status
  /-- `cycle_count` (R26); its increment wraps (DEDUCED, log entry 5). -/
  cycleCount : BitVec 64
  /-- `retired_count` (R26). -/
  retiredCount : BitVec 64
  /-- `IFDE` (R28). -/
  ifde : IfDe
  /-- `DEEX` (R29). -/
  deex : DeEx
  /-- `EXMEM` (R33). -/
  exmem : ExMem
  /-- `MEMWB` (R34). -/
  memwb : MemWb
  /-- `EXMEM_CKPT` (R35). -/
  exmemCkpt : ExMem
  /-- `GHR`, `PHT`, `BTB` (R39 to R41). -/
  pred : Predictor
  /-- `IC` and `Q(IC)` (R42, R44). -/
  ic : Cache
  /-- `DC` and `Q(DC)` (R42, R44). -/
  dc : Cache
  /-- `TS`, the timestamp counter shared by both caches (R43), unbounded (DESIGN CHOICE, log entry 4). -/
  ts : Nat
  /-- `MEMW`, the backing memory behind both caches (20_memory.md R60). -/
  mem : Memory
deriving DecidableEq, Repr

/-- The control bundles of a bubble, and of an invalid register at reset: every control bit 0
(10_state.md R36). -/
def ExCtl.zero : ExCtl := { aluSrc := .reg, aluOp := .add, brKind := .none, cc := .eq }

/-- See `ExCtl.zero`. The width 0 of a bubble is written as 1 (DESIGN CHOICE, log entry 12). -/
def MemCtl.zero : MemCtl :=
  { isBranch := false, condMet := false, memRead := false, memWrite := false, width := .b1 }

/-- See `ExCtl.zero`. -/
def WbCtl.zero : WbCtl := { regWrite := false, memToReg := false, flagsUpdate := false }

/-- `IFDE` after reset: `valid = 0`. The other fields are unspecified and nothing reads them before
they are written (10_state.md R47, R37); they are 0 here (DESIGN CHOICE, log entry 1). -/
def IfDe.reset : IfDe :=
  { valid := false, memStall := false, squash := false, flush := false, word := 0, pc := 0,
    z := false, n := false, predTaken := false, predNext := 0 }

/-- `DEEX` after reset, as `IfDe.reset`. -/
def DeEx.reset : DeEx :=
  { valid := false, kind := .operate, pc := 0, z := false, n := false, flagsFwd := false,
    predTaken := false, predNext := 0, layout := .none, srcA := zeroReg, srcB := zeroReg,
    dst := zeroReg, valA := 0, valB := 0, imm := 0, offset := 0,
    ex := ExCtl.zero, mem := MemCtl.zero, wb := WbCtl.zero }

/-- `EXMEM` and `EXMEM_CKPT` after reset, as `IfDe.reset`. -/
def ExMem.reset : ExMem :=
  { valid := false, kind := .operate, pc := 0, aluResult := 0, storeData := 0, dst := zeroReg,
    mem := MemCtl.zero, wb := WbCtl.zero, newZ := false, newN := false }

/-- `MEMWB` after reset, as `IfDe.reset`. -/
def MemWb.reset : MemWb :=
  { valid := false, kind := .operate, pc := 0, aluResult := 0, memData := 0, dst := zeroReg,
    wb := WbCtl.zero, newZ := false, newN := false }

/-- The machine after `Initialize` (10_state.md R47) with the default parameters. `Initialize` leaves
backing memory alone (46_driver.md R245); here no byte of it is listed, so that it reads as 0
everywhere (DESIGN CHOICE, log entry 2). -/
def State.reset : State where
  regs := Vector.replicate 31 0
  pc := defaultParams.entryPC
  z := false
  n := false
  controlStalled := false
  dataStalled := false
  dcacheStalled := false
  feHalted := false
  deHalted := false
  exHalted := false
  memHalted := false
  status := .running
  cycleCount := 0
  retiredCount := 0
  ifde := IfDe.reset
  deex := DeEx.reset
  exmem := ExMem.reset
  memwb := MemWb.reset
  exmemCkpt := ExMem.reset
  pred := { ghr := 0, pht := [], btb := [] }
  ic := { lines := [], queries := [] }
  dc := { lines := [], queries := [] }
  ts := 0
  mem := []

end Sys2Proof.Machine
end

