-- ==== Sys2Proof/Machine/Ops.lean ====
section
/-!
DEFINITION. The named operations over the parts of the state: sparse tables, bytes and words of backing
memory, general registers, and the one way a fault is taken (`raiseFatal`, 60_exceptions.md R301) with
the one way back (`initCore`, 46_driver.md R245).
-/

namespace Sys2Proof.Machine

/-! ## Sparse tables -/

/-- The entry listed at an index, if one is. -/
def tableGet {α : Type} : List (Nat × α) → Nat → Option α
  | [], _ => none
  | (k, v) :: t, i => if i = k then some v else tableGet t i

/-- List an entry at an index, in place of the one listed there. -/
def tablePut {α : Type} : List (Nat × α) → Nat → α → List (Nat × α)
  | [], i, v => [(i, v)]
  | (k, w) :: t, i, v =>
    if i < k then (i, v) :: (k, w) :: t
    else if i = k then (i, v) :: t
    else (k, w) :: tablePut t i v

/-- List nothing at an index. -/
def tableErase {α : Type} : List (Nat × α) → Nat → List (Nat × α)
  | [], _ => []
  | (k, w) :: t, i => if i = k then tableErase t i else (k, w) :: tableErase t i

/-- The entry at an index of a table whose unlisted entries are `d`. -/
def sparseGet {α : Type} (d : α) (m : List (Nat × α)) (i : Nat) : α := (tableGet m i).getD d

/-- Set an entry of a table whose unlisted entries are `d`: setting it to `d` removes it. -/
def sparseSet {α : Type} [DecidableEq α] (d : α) (m : List (Nat × α)) (i : Nat) (v : α) :
    List (Nat × α) :=
  if v = d then tableErase m i else tablePut m i v

/-- The indices of a table rise strictly. -/
abbrev tableSorted {α : Type} (m : List (Nat × α)) : Prop := (m.map Prod.fst).Pairwise (· < ·)

/-! ## Backing memory (20_memory.md) -/

/-- What a byte of backing memory that nothing has written reads as. The spec leaves the contents to
the host, "0 in the test vectors" (92_eei_decisions.md D26): 0 (DESIGN CHOICE, log entry 2). -/
def unlistedByte : Byte := 0

/-- The byte of backing memory at an address (R62). -/
def memRead (m : Memory) (a : Word) : Byte := sparseGet unlistedByte m a.toNat

/-- Replace the byte of backing memory at an address. -/
def memWrite (m : Memory) (a : Word) (b : Byte) : Memory := sparseSet unlistedByte m a.toNat b

/-- The canonical form of the backing memory: addresses strictly rising and inside the 64-bit address
space (R61), and no entry equal to what an unlisted address reads as. -/
abbrev Memory.wf (m : Memory) : Prop :=
  tableSorted m ∧ ∀ c ∈ m, c.1 < 2 ^ 64 ∧ c.2 ≠ unlistedByte

/-- `MemWordRead(a)` (R60): four bytes, least significant first (R62). -/
def memWordRead (m : Memory) (a : Word) : Word32 :=
  memRead m (a + 3) ++ memRead m (a + 2) ++ memRead m (a + 1) ++ memRead m a

/-- Byte `i` of a word, byte 0 the least significant (R62). -/
def wordByte (w : Word32) (i : Nat) : Byte := w.extractLsb' (8 * i) 8

/-- `MemWordWrite(a, w)` (R60). -/
def memWordWrite (m : Memory) (a : Word) (w : Word32) : Memory :=
  memWrite (memWrite (memWrite (memWrite m a (wordByte w 0)) (a + 1) (wordByte w 1))
    (a + 2) (wordByte w 2)) (a + 3) (wordByte w 3)

/-- A run of bytes as a number, the first the least significant (R63). -/
def bytesValue : List Byte → Nat
  | [] => 0
  | b :: t => b.toNat + 256 * bytesValue t

/-- The low `n` bytes of a value, least significant first (R63, R64). -/
def valueBytes (n : Nat) (v : Word) : List Byte :=
  (List.range n).map fun i => v.extractLsb' (8 * i) 8

/-- The `n` bytes of backing memory from an address on. -/
def memBytes (m : Memory) (a : Word) (n : Nat) : List Byte :=
  (List.range n).map fun i => memRead m (a + BitVec.ofNat 64 i)

/-- The host places one word in backing memory before the first `StepCycle` (46_driver.md R252,
70_reset_and_hazards.md R323). -/
def hostWriteWord (a : Word) (w : Word32) (s : State) : State :=
  { s with mem := memWordWrite s.mem a w }

/-! ## General registers (10_state.md R20, R21) -/

/-- `x[r]`: the zero register reads 0. -/
def readReg (s : State) (r : Reg) : Word :=
  if r = zeroReg then 0 else s.regs[r.toNat]?.getD 0

/-- `x[r] <- v`: a write to the zero register is dropped. -/
def writeReg (r : Reg) (v : Word) (s : State) : State :=
  if r = zeroReg then s else { s with regs := s.regs.setIfInBounds r.toNat v }

/-! ## Faults and the way back -/

/-- `raise Fatal(code, info)` (60_exceptions.md R301): `STATUS` and nothing else is written. That the
rest of the cycle is abandoned is `unlessFatal`. There is no saved pc, no cause register, no vector
and no mode change (R307). -/
def raiseFatal (info : FatalInfo) (s : State) : State := { s with status := .fatal info }

/-- A fatal fault has been raised. -/
def isFatal (s : State) : Bool :=
  match s.status with
  | .fatal _ => true
  | .running | .halted => false

/-- The next procedure of the cycle, unless an earlier one raised a fatal fault: then the rest of
`StepCycle` is abandoned (60_exceptions.md R301). -/
def unlessFatal (f : State → State) (s : State) : State := if isFatal s then s else f s

/-- `Initialize()` (46_driver.md R245): every piece of state takes its reset value, `PC` the entry
address, and backing memory is not touched. It is the only way out of `HALTED` and of `FATAL`. -/
def initCore (p : Params) (s : State) : State :=
  { State.reset with pc := p.entryPC, mem := s.mem }

/-- The code of a fatal fault (60_exceptions.md R302). -/
def fatalCode : FatalInfo → Nat
  | .decodeFault _ _ => 1
  | .blockCross _ => 2
  | .negCountdown _ => 3
  | .dupQuery _ => 4
  | .badCacheHandle => 5

end Sys2Proof.Machine
end

