-- ==== Sys2Proof/Machine/Operands.lean ====
section
/-!
DEFINITION. Operands and control records: the extension of immediates, the slots a layout needs, the
bubble values, the control record of every instruction format (30_encoding.md R90 to R100,
47_refdec_instructions.md), and the numeric codes of the enumerations.
-/

namespace Sys2Proof.Machine

/-- `sext_N(v)` (00_scope.md R7). -/
def sext {n : Nat} (v : BitVec n) : Word := v.signExtend 64

/-- `zext_N(v)` (00_scope.md R7). -/
def zext {n : Nat} (v : BitVec n) : Word := v.setWidth 64

/-- `IsBubble(k)` (30_encoding.md R80). -/
def isBubble : Kind → Bool
  | .dataBubble | .controlBubble | .memBubble => true
  | .operate | .dataMove | .control | .other | .invalid => false

/-- The bytes an access width stands for (30_encoding.md R84). -/
def widthBytes : Width → Nat
  | .b1 => 1
  | .b2 => 2
  | .b4 => 4
  | .b8 => 8

/-- Whether a layout needs the first source slot (30_encoding.md R85). -/
def needsA : Layout → Bool
  | .r | .i | .load | .store | .cb => true
  | .none | .b => false

/-- Whether a layout needs the second source slot (30_encoding.md R85). -/
def needsB : Layout → Bool
  | .r | .store => true
  | .none | .i | .load | .b | .cb => false

/-! ## Bubbles (10_state.md R36) -/

/-- `Bubble(k, p)` as a value of `DEEX`. -/
def bubbleDeEx (k : Kind) (p : Word) : DeEx := { DeEx.reset with valid := true, kind := k, pc := p }

/-- `Bubble(k, p)` as a value of `EXMEM`. -/
def bubbleExMem (k : Kind) (p : Word) : ExMem := { ExMem.reset with valid := true, kind := k, pc := p }

/-- `Bubble(k, p)` as a value of `MEMWB`. -/
def bubbleMemWb (k : Kind) (p : Word) : MemWb := { MemWb.reset with valid := true, kind := k, pc := p }

/-! ## Control records, format by format -/

/-- The fields a rule of 47_refdec_instructions.md does not mention: zero, and index 31. -/
def blankRecord (k : Kind) : Decoded :=
  { kind := k, layout := .none, srcA := zeroReg, srcB := zeroReg, dst := zeroReg, imm := 0, offset := 0,
    ex := ExCtl.zero, mem := MemCtl.zero, wb := WbCtl.zero }

/-- Register-format ALU (30_encoding.md R91, 47_refdec_instructions.md section 1). -/
def regRecord (op : AluOp) (flags : Bool) (rd rn rm : Reg) : Decoded :=
  { blankRecord .operate with
    layout := .r, srcA := rn, srcB := rm, dst := rd
    ex := { ExCtl.zero with aluOp := op }
    wb := { regWrite := true, memToReg := false, flagsUpdate := flags } }

/-- Immediate-format ALU (30_encoding.md R92 to R94, 47_refdec_instructions.md sections 2 and 4). -/
def immRecord (op : AluOp) (flags : Bool) (rd rn : Reg) (imm : Word) : Decoded :=
  { blankRecord .operate with
    layout := .i, srcA := rn, dst := rd, imm := imm
    ex := { ExCtl.zero with aluSrc := .imm, aluOp := op }
    wb := { regWrite := true, memToReg := false, flagsUpdate := flags } }

/-- The compare form of a flag-setting subtraction, `Rd = 31` (30_encoding.md R104): the operation is
`CMP` and no register is written. -/
def compareRecord (d : Decoded) : Decoded :=
  { d with dst := zeroReg, ex := { d.ex with aluOp := .cmp }, wb := { d.wb with regWrite := false } }

/-- Loads (30_encoding.md R95, 47_refdec_instructions.md section 3). -/
def loadRecord (w : Width) (rt rn : Reg) (imm9 : BitVec 9) : Decoded :=
  { blankRecord .dataMove with
    layout := .load, srcA := rn, dst := rt, imm := sext imm9
    ex := { ExCtl.zero with aluSrc := .imm }
    mem := { MemCtl.zero with memRead := true, width := w }
    wb := { regWrite := true, memToReg := true, flagsUpdate := false } }

/-- Stores (30_encoding.md R95, 47_refdec_instructions.md section 3). -/
def storeRecord (w : Width) (rt rn : Reg) (imm9 : BitVec 9) : Decoded :=
  { blankRecord .dataMove with
    layout := .store, srcA := rn, srcB := rt, imm := sext imm9
    ex := { ExCtl.zero with aluSrc := .imm }
    mem := { MemCtl.zero with memWrite := true, width := w } }

/-- Branches that test no register (30_encoding.md R96, R97, 47_refdec_instructions.md section 5). -/
def branchRecord (k : BrKind) (cc : Cc) (offset : Word) : Decoded :=
  { blankRecord .control with
    layout := .b, offset := offset
    ex := { ExCtl.zero with brKind := k, cc := cc }
    mem := { MemCtl.zero with isBranch := true } }

/-- Compare-and-branch (30_encoding.md R98). -/
def compareBranchRecord (k : BrKind) (rt : Reg) (offset : Word) : Decoded :=
  { branchRecord k .eq offset with layout := .cb, srcA := rt }

/-- `HLT` and `NOP` (30_encoding.md R99). -/
def systemRecord : Decoded := blankRecord .other

/-- The answer of the decoder service for a word it does not know (30_encoding.md R86 item 2): only the
kind has a meaning. -/
def invalidRecord : Decoded := blankRecord .invalid

/-! ## Numeric codes (92_eei_decisions.md D23); no rule depends on them -/

/-- R80. -/
def kindCode : Kind → BitVec 4
  | .operate => 0 | .dataMove => 1 | .control => 2 | .other => 3 | .invalid => 4
  | .dataBubble => 8 | .controlBubble => 9 | .memBubble => 10

/-- R81. -/
def aluSrcCode : AluSrc → BitVec 1
  | .reg => 0 | .imm => 1

/-- R82. -/
def aluOpCode : AluOp → BitVec 4
  | .add => 0 | .sub => 1 | .and => 2 | .or => 3 | .xor => 4 | .shl => 5 | .shr => 6 | .mul => 7
  | .cmp => 8

/-- R83. -/
def brKindCode : BrKind → BitVec 3
  | .none => 0 | .uncond => 1 | .cond => 2 | .cbz => 3 | .cbnz => 4

/-- R83. -/
def ccCode : Cc → BitVec 3
  | .eq => 0 | .ne => 1 | .lt => 2 | .ge => 3 | .gt => 4 | .le => 5

/-- R84. -/
def widthCode : Width → BitVec 2
  | .b1 => 0 | .b2 => 1 | .b4 => 2 | .b8 => 3

/-- R85. -/
def layoutCode : Layout → BitVec 3
  | .none => 0 | .r => 1 | .i => 2 | .load => 3 | .store => 4 | .b => 5 | .cb => 6

end Sys2Proof.Machine
end

