-- ==== Sys2Proof/Machine/Cache.lean ====
section
/-!
DEFINITION. The timed cache model (40_cache.md): geometry, `Lookup`, `Read`, `Write`, `Touch`, `Fill`,
`Sync`, `Tick` and `Cancel`, over either cache of the state.
-/

namespace Sys2Proof.Machine

/-! ## Geometry (R110) -/

/-- `SETS(c)`. -/
def setsOf (p : Params) : CacheId → Nat
  | .ic => p.iSets
  | .dc => p.dSets

/-- `WAYS(c)`. -/
def waysOf (p : Params) : CacheId → Nat
  | .ic => p.iWays
  | .dc => p.dWays

/-- `bn(a) = a >> log2(BLOCK)`, `BLOCK` being a power of two. -/
def blockNumber (p : Params) (a : Word) : Nat := a.toNat / p.block

/-- `off(a) = a mod BLOCK`. -/
def blockOffset (p : Params) (a : Word) : Nat := a.toNat % p.block

/-- `base(a) = a - (a mod BLOCK)`. -/
def blockBase (p : Params) (a : Word) : Word := BitVec.ofNat 64 (a.toNat - a.toNat % p.block)

/-- The base of the block a tag names, `tag << log2(BLOCK)` (R120). -/
def tagBase (p : Params) (tag : Nat) : Word := BitVec.ofNat 64 (tag * p.block)

/-- `set(a) = bn(a) mod SETS(c)` (92_eei_decisions.md D5). -/
def setIndex (p : Params) (c : CacheId) (a : Word) : Nat := blockNumber p a % setsOf p c

/-- The index of way `w` of the set of address `a` in the list of lines. -/
def lineIndex (p : Params) (c : CacheId) (a : Word) (w : Nat) : Nat := setIndex p c a * waysOf p c + w

/-! ## Access to the two caches -/

/-- The cache an argument names. -/
def getCache (c : CacheId) (s : State) : Cache :=
  match c with
  | .ic => s.ic
  | .dc => s.dc

/-- Replace a cache. -/
def setCache (c : CacheId) (v : Cache) (s : State) : State :=
  match c with
  | .ic => { s with ic := v }
  | .dc => { s with dc := v }

/-- Replace the query list `Q(c)`. -/
def setQueries (c : CacheId) (q : List Query) (s : State) : State :=
  setCache c { getCache c s with queries := q } s

/-- Replace one line of a cache. -/
def setLine (c : CacheId) (i : Nat) (l : Line) (s : State) : State :=
  setCache c { getCache c s with lines := tablePut (getCache c s).lines i l } s

/-! ## Lookup (R111) -/

/-- `Lookup(c, a)`: the first way of the set whose line is valid and holds the block, with its index. -/
def cacheLookup (p : Params) (c : CacheId) (a : Word) (s : State) : Option (Nat × Line) :=
  (List.range (waysOf p c)).findSome? fun w =>
    match tableGet (getCache c s).lines (lineIndex p c a w) with
    | some l => if l.tag = blockNumber p a then some (lineIndex p c a w, l) else none
    | none => none

/-- The pending query for the block of an address, if there is one (R113 to R115). -/
def pendingQuery (p : Params) (c : CacheId) (a : Word) (s : State) : Option Query :=
  (getCache c s).queries.find? fun q => q.base == blockBase p a

/-! ## Read (R112 to R115), Touch (R117) -/

/-- The result of `Read` and `Write`. `data` is no value while cycles remain (R123). -/
inductive Access where
  /-- A fatal fault was raised. -/
  | raised
  /-- `remaining_cycles`, not 0. -/
  | waiting (remaining : Nat)
  /-- `remaining_cycles = 0`: the data read, and the index of the line. -/
  | done (data : Word) (index : Nat)
deriving DecidableEq, Repr

/-- `Touch(L)` on the line at an index, with the content given: `TS <- TS + 1; L.stamp <- TS`. -/
def touchLine (c : CacheId) (i : Nat) (l : Line) (s : State) : State :=
  setLine c i { l with stamp := s.ts + 1 } { s with ts := s.ts + 1 }

/-- Append a new query to `Q(c)` (R113). A second query for a block would be `Fatal(DUP_QUERY)`
(60_exceptions.md R302); `cacheRead` calls this only when the block has none (R303). -/
def openQuery (c : CacheId) (base : Word) (s : State) : State :=
  if (getCache c s).queries.any (fun q => q.base == base) then raiseFatal (.dupQuery base) s
  else setQueries c ((getCache c s).queries ++ [{ base := base, rem := missLatency }]) s

/-- The access of `n` bytes at `a` would leave its block (R112). -/
def crossesBlock (p : Params) (a : Word) (n : Nat) : Bool := p.block < blockOffset p a + n

/-- The `n` bytes of a line from an offset on, as a number (R114). -/
def lineData (l : Line) (off n : Nat) : Word :=
  BitVec.ofNat 64 (bytesValue ((l.bytes.drop off).take n))

/-- `Read(c, a, n)` (R112 to R115): the block test first, then a pending query, then the lookup. -/
def cacheRead (p : Params) (c : CacheId) (a : Word) (n : Nat) (s : State) : Access × State :=
  if crossesBlock p a n then (.raised, raiseFatal (.blockCross a) s)
  else
    match pendingQuery p c a s with
    | some q => (.waiting q.rem, s)
    | none =>
      match cacheLookup p c a s with
      | some (i, l) => (.done (lineData l (blockOffset p a) n) i, touchLine c i l s)
      | none => (.waiting missLatency, openQuery c (blockBase p a) s)

/-! ## Write and Sync (R116, R120) -/

/-- Word `i` of a line: its bytes `4*i` to `4*i+3`, least significant first (R120). -/
def lineWord (l : Line) (i : Nat) : Word32 :=
  (l.bytes[4 * i + 3]?.getD 0) ++ (l.bytes[4 * i + 2]?.getD 0) ++ (l.bytes[4 * i + 1]?.getD 0) ++
    (l.bytes[4 * i]?.getD 0)

/-- The address of word `i` of a block. -/
def blockWordAddr (b : Word) (i : Nat) : Word := b + BitVec.ofNat 64 (4 * i)

/-- `Sync(c, L)` on backing memory (R120): all `BLOCK/4` words, in ascending order. -/
def syncBlock (p : Params) (l : Line) (m : Memory) : Memory :=
  (List.range (p.block / 4)).foldl
    (fun m i => memWordWrite m (blockWordAddr (tagBase p l.tag) i) (lineWord l i)) m

/-- The line with `n` bytes from offset `off` on replaced by the low bytes of a value (R116). -/
def patchLine (l : Line) (off n : Nat) (v : Word) : Line :=
  { l with bytes := l.bytes.take off ++ valueBytes n v ++ l.bytes.drop (off + n) }

/-- The completing part of `Write` (R116): the line takes the bytes and its whole block goes to backing
memory at once. -/
def storeLine (p : Params) (c : CacheId) (i : Nat) (l : Line) (off n : Nat) (v : Word) (s : State) :
    State :=
  let l' := patchLine l off n v
  let s' := setLine c i l' s
  { s' with mem := syncBlock p l' s'.mem }

/-- `Write(c, a, n, v)` (R116): the `Read` inside may create a query and moves the stamp; the bytes and
the memory change only in the call that completes. -/
def cacheWrite (p : Params) (c : CacheId) (a : Word) (n : Nat) (v : Word) (s : State) :
    Access × State :=
  match cacheRead p c a n s with
  | (.done d i, s1) =>
    match tableGet (getCache c s1).lines i with
    | some l => (.done d i, storeLine p c i l (blockOffset p a) n v s1)
    | none => (.done d i, s1)
  | r => r

/-! ## Fill (R119) and Tick (R118) -/

/-- The stamp of way `w`; an invalid line has stamp 0 (10_state.md R42). -/
def wayStamp (p : Params) (c : CacheId) (a : Word) (s : State) (w : Nat) : Nat :=
  match tableGet (getCache c s).lines (lineIndex p c a w) with
  | some l => l.stamp
  | none => 0

/-- The way with the smallest stamp of the set of `a`, among equals the smallest (R119). -/
def victimWay (p : Params) (c : CacheId) (a : Word) (s : State) : Nat :=
  (List.range (waysOf p c)).foldl
    (fun best w => if wayStamp p c a s w < wayStamp p c a s best then w else best) 0

/-- The bytes of the block at `b`, read word by word (R119). -/
def fillBytes (p : Params) (b : Word) (m : Memory) : List Byte :=
  (List.range (p.block / 4)).flatMap fun i =>
    (List.range 4).map fun k => wordByte (memWordRead m (blockWordAddr b i)) k

/-- `Fill(c, b)` (R119). -/
def cacheFill (p : Params) (c : CacheId) (b : Word) (s : State) : State :=
  touchLine c (lineIndex p c b (victimWay p c b s))
    { tag := blockNumber p b, stamp := 0, bytes := fillBytes p b s.mem } s

/-- The queries of a cache in turn, oldest first (R118); `kept` are those already counted down, in
order. A query at 0 is `Fatal(NEG_COUNTDOWN)`, and the rest of the tick does not happen. -/
def tickQueries (p : Params) (c : CacheId) (kept : List Query) : List Query → State → State
  | [], s => setQueries c kept s
  | q :: rest, s =>
    if q.rem = 0 then raiseFatal (.negCountdown q.base) (setQueries c (kept ++ q :: rest) s)
    else if q.rem = 1 then tickQueries p c kept rest (cacheFill p c q.base s)
    else tickQueries p c (kept ++ [{ q with rem := q.rem - 1 }]) rest s

/-- `Tick(c)` (R118). -/
def cacheTick (p : Params) (c : CacheId) (s : State) : State :=
  tickQueries p c [] (getCache c s).queries s

/-! ## Cancel (R121) -/

/-- `Cancel(c, a)`: remove the pending query for the block of `a`, if there is one. -/
def cacheCancel (p : Params) (c : CacheId) (a : Word) (s : State) : State :=
  setQueries c ((getCache c s).queries.eraseP fun q => q.base == blockBase p a) s

end Sys2Proof.Machine
end

