-- ==== Sys2Proof/Machine/Flags.lean ====
section
/-!
DEFINITION. The flags: what the ALU computes for `Z` and `N` (44_execute.md R193), when a condition
holds (30_encoding.md R83) and which flags a conditional branch tests (44_execute.md R196).
-/

namespace Sys2Proof.Machine

/-- `newZ` (R193): the result is 0. -/
def zeroFlag (res : Word) : Bool := res == 0

/-- `newN` (R193): bit 63 of the result. -/
def negFlag (res : Word) : Bool := res.getLsbD 63

/-- A condition holds of the flags (30_encoding.md R83). -/
def ccHolds (cc : Cc) (z n : Bool) : Bool :=
  match cc with
  | .eq => z
  | .ne => !z
  | .lt => n
  | .ge => !n
  | .gt => !n && !z
  | .le => n || z

/-- The effective `Z` (R196): the forwarded copy if one was forwarded, else the architectural flag. -/
def effectiveZ (s : State) : Bool := if s.deex.flagsFwd then s.deex.z else s.z

/-- The effective `N` (R196). -/
def effectiveN (s : State) : Bool := if s.deex.flagsFwd then s.deex.n else s.n

end Sys2Proof.Machine
end

