-- ==== Sys2Proof/Machine/Predictor.lean ====
section
/-!
DEFINITION. The branch predictor (41_predictor.md): a gshare direction predictor and a branch-target
buffer, with the two operations `Predict` and `Update`.
-/

namespace Sys2Proof.Machine

/-- The BTB index `pc[11:2]` (R132). -/
def btbIndex (pc : Word) : Nat := (pc.extractLsb' 2 10).toNat

/-- The PHT index `GHR xor pc[9:2]` (R132). -/
def phtIndex (b : Predictor) (pc : Word) : Nat := (b.ghr ^^^ pc.extractLsb' 2 8).toNat

/-- `PHT[i]`; an unlisted counter is 0 (10_state.md R40). -/
def phtGet (b : Predictor) (i : Nat) : BitVec 2 := sparseGet 0 b.pht i

/-- The two-bit counter after an outcome, saturating at 3 and at 0 (R131). -/
def phtBump (taken : Bool) (c : BitVec 2) : BitVec 2 :=
  if taken then (if c = 3 then 3 else c + 1) else (if c = 0 then 0 else c - 1)

/-- The address of the next instruction in order. -/
def fallThrough (pc : Word) : Word := pc + 4

/-- `Predict(pc)` (R130): direction and next pc. -/
def predict (b : Predictor) (pc : Word) : Bool × Word :=
  match tableGet b.btb (btbIndex pc) with
  | none => (false, fallThrough pc)
  | some e =>
    if e.tag ≠ pc then (false, fallThrough pc)
    else if !e.isCond then (true, e.target)
    else if phtGet b (phtIndex b pc) > 1 then (true, e.target)
    else (false, fallThrough pc)

/-- `Update(is_cond, taken, pc, target)` (R131). -/
def predUpdate (isCond taken : Bool) (pc target : Word) (b : Predictor) : Predictor :=
  let b' := { b with btb := tablePut b.btb (btbIndex pc) { tag := pc, isCond := isCond, target := target } }
  if isCond then
    { b' with
      pht := sparseSet 0 b.pht (phtIndex b pc) (phtBump taken (phtGet b (phtIndex b pc)))
      ghr := (b.ghr <<< 1) ||| (if taken then 1 else 0) }
  else b'

end Sys2Proof.Machine
end

