-- ==== Sys2Proof/Machine/Execute.lean ====
section
/-!
DEFINITION. The Execute stage (44_execute.md): ALU, branch resolution, misprediction repair.
-/

namespace Sys2Proof.Machine

/-- The ALU (R184 to R192). Shift amounts are taken modulo 64 (R189, R190). -/
def alu (op : AluOp) (a b : Word) : Word :=
  match op with
  | .add => a + b
  | .sub => a - b
  | .and => a &&& b
  | .or => a ||| b
  | .xor => a ^^^ b
  | .shl => a <<< (b.toNat % 64)
  | .shr => a >>> (b.toNat % 64)
  | .mul => a * b
  | .cmp => a - b

/-- The second ALU operand (R183, 30_encoding.md R81). -/
def operandB (d : DeEx) : Word :=
  match d.ex.aluSrc with
  | .imm => d.imm
  | .reg => d.valB

/-- The ALU result of the instruction in `DEEX` (R183); the effective address of a load or store. -/
def aluOf (d : DeEx) : Word := alu d.ex.aluOp d.valA (operandB d)

/-- The branch target (R194). -/
def branchTarget (d : DeEx) : Word := d.pc + 4 * d.offset

/-- Whether the branch in `DEEX` is taken (R195 to R198). `NONE` does not occur for a `CONTROL`
instruction (30_encoding.md R86 item 3). -/
def branchTaken (s : State) : Bool :=
  match s.deex.ex.brKind with
  | .none => false
  | .uncond => true
  | .cond => ccHolds s.deex.ex.cc (effectiveZ s) (effectiveN s)
  | .cbz => s.deex.valA == 0
  | .cbnz => s.deex.valA != 0

/-- The address of the next instruction on the executed path (R195). -/
def actualNext (s : State) : Word :=
  if branchTaken s then branchTarget s.deex else fallThrough s.deex.pc

/-- `is_cond` of the predictor update: every branch kind but `UNCOND` (R201). -/
def updatesHistory (k : BrKind) : Bool :=
  match k with
  | .uncond => false
  | .none | .cond | .cbz | .cbnz => true

/-- The cancellation of a speculative fetch miss now known to be on the wrong path (R200). -/
def cancelWrongFetch (p : Params) (s : State) : State :=
  if s.ifde.valid && s.ifde.memStall then cacheCancel p .ic s.pc s else s

/-- Misprediction repair (R200). -/
def repair (p : Params) (target : Word) (s : State) : State :=
  let s' := cancelWrongFetch p s
  { s' with
    pc := target
    ifde := { s'.ifde with flush := true }
    controlStalled := true
    feHalted := false }

/-- Compare the actual next pc with the prediction: clear the control stall, or repair (R199, R200). -/
def checkPrediction (p : Params) (s : State) : State :=
  if actualNext s = s.deex.predNext then { s with controlStalled := false }
  else repair p (actualNext s) s

/-- Resolution of a `CONTROL` instruction (R195 to R201): check the prediction, then update the
predictor with the true outcome. -/
def resolveBranch (p : Params) (s : State) : State :=
  let s' := checkPrediction p s
  { s' with
    pred := predUpdate (updatesHistory s.deex.ex.brKind) (branchTaken s) s.deex.pc
      (branchTarget s.deex) s'.pred }

/-- The `mem` bundle that leaves Execute: `cond_met` is written here (R202, 10_state.md R31). -/
def outgoingMem (s : State) : MemCtl :=
  { s.deex.mem with condMet := s.deex.kind == .control && branchTaken s }

/-- `EXMEM` as Execute fills it (R202). -/
def exMemOf (s : State) : ExMem :=
  { valid := true, kind := s.deex.kind, pc := s.deex.pc, aluResult := aluOf s.deex,
    storeData := s.deex.valB, dst := s.deex.dst, mem := outgoingMem s, wb := s.deex.wb,
    newZ := zeroFlag (aluOf s.deex), newN := negFlag (aluOf s.deex) }

/-- Halt propagation, after the move to `EXMEM` and only then (R203). -/
def propagateExHalt (s : State) : State := if s.deHalted then { s with exHalted := true } else s

/-- Execute the instruction in `DEEX` (R183 to R203). -/
def executeInstr (p : Params) (s : State) : State :=
  let s' := if s.deex.kind = .control then resolveBranch p s else s
  propagateExHalt { s' with exmem := exMemOf s }

/-- `Execute()` (R204). -/
def executeStage (p : Params) (s : State) : State :=
  if s.exHalted || s.dcacheStalled then s
  else if !s.deex.valid then s
  else if s.dataStalled then { s with exmem := bubbleExMem .dataBubble s.deex.pc }
  else if isBubble s.deex.kind then { s with exmem := bubbleExMem s.deex.kind s.deex.pc }
  else executeInstr p s

end Sys2Proof.Machine
end

