-- ==== Sys2Proof/Machine/FetchDecode.lean ====
section
/-!
DEFINITION. The Fetch and Decode stages (43_fetch_decode.md). Decode is given the answer of the decoder
service for the word in `IFDE`; Fetch is given the halt predicate of the service (30_encoding.md R86,
R87).
-/

namespace Sys2Proof.Machine

/-! ## Decode -/

/-- `DEEX` for a decoded instruction, with the two registers read (R173, R174). -/
def deExOf (d : Decoded) (s : State) : DeEx :=
  { valid := true, kind := d.kind, pc := s.ifde.pc, z := s.ifde.z, n := s.ifde.n, flagsFwd := false,
    predTaken := s.ifde.predTaken, predNext := s.ifde.predNext, layout := d.layout,
    srcA := d.srcA, srcB := d.srcB, dst := d.dst, valA := readReg s d.srcA, valB := readReg s d.srcB,
    imm := d.imm, offset := d.offset, ex := d.ex, mem := d.mem, wb := d.wb }

/-- Halt propagation, after `DEEX` is populated and only then (R175). -/
def propagateDeHalt (s : State) : State := if s.feHalted then { s with deHalted := true } else s

/-- Decode proper (R172 to R175): an undecodable word is `Fatal(DECODE_FAULT)` and `DEEX` is not
written. -/
def issueDecoded (d : Decoded) (s : State) : State :=
  if d.kind = .invalid then raiseFatal (.decodeFault s.ifde.word s.ifde.pc) s
  else propagateDeHalt { s with deex := deExOf d s }

/-- `Decode()` (R176), the decoder's answer for `IFDE.word` being `d`. -/
def decodeStage (d : Decoded) (s : State) : State :=
  if s.deHalted || s.dcacheStalled then s
  else if s.dataStalled then s
  else if !s.ifde.valid then s
  else if s.ifde.squash || s.ifde.flush then { s with deex := bubbleDeEx .controlBubble s.ifde.pc }
  else if s.ifde.memStall then { s with deex := bubbleDeEx .memBubble s.ifde.pc }
  else issueDecoded d s

/-! ## Fetch -/

/-- The hit path of Fetch with a fetched word (R161 to R164): predict, fill `IFDE`, recognise a halt
instruction, advance `PC`. -/
def deliverWord (isHalt : Word32 → Bool) (w : Word32) (s : State) : State :=
  { s with
    ifde := { valid := true, memStall := false, squash := false, flush := false, word := w,
              pc := s.pc, z := s.z, n := s.n, predTaken := (predict s.pred s.pc).1,
              predNext := (predict s.pred s.pc).2 }
    feHalted := s.feHalted || isHalt w
    pc := (predict s.pred s.pc).2 }

/-- The miss path of Fetch (R160). The fields that become meaningless keep their values (DESIGN CHOICE,
log entry 9). -/
def markFetchStall (s : State) : State :=
  { s with
    ifde := { s.ifde with valid := true, memStall := true, squash := false, flush := false, pc := s.pc } }

/-- Fetch when it is gated by none of its three tests (R157 to R164). -/
def fetchOpen (p : Params) (isHalt : Word32 → Bool) (s : State) : State :=
  if s.controlStalled then { s with ifde := { s.ifde with squash := true }, controlStalled := false }
  else
    match cacheRead p .ic s.pc 4 s with
    | (.raised, s1) => s1
    | (.waiting _, s1) => markFetchStall s1
    | (.done data _, s1) => deliverWord isHalt (data.setWidth 32) s1

/-- `Fetch()` (R165). -/
def fetchStage (p : Params) (isHalt : Word32 → Bool) (s : State) : State :=
  if s.feHalted || s.dcacheStalled || s.dataStalled then s else fetchOpen p isHalt s

end Sys2Proof.Machine
end

