-- ==== Sys2Proof/Machine/MemoryStage.lean ====
section
/-!
DEFINITION. The Memory stage (45_memory_writeback.md section 1).
-/

namespace Sys2Proof.Machine

/-- `MEMWB` as Memory fills it from `EXMEM`, with the loaded datum (R223, R227). -/
def memWbOf (e : ExMem) (data : Word) : MemWb :=
  { valid := true, kind := e.kind, pc := e.pc, aluResult := e.aluResult, memData := data, dst := e.dst,
    wb := e.wb, newZ := e.newZ, newN := e.newN }

/-- Halt propagation, after the move to `MEMWB` and only then (R229). -/
def propagateMemHalt (s : State) : State := if s.exHalted then { s with memHalted := true } else s

/-- The restore of `EXMEM` while a data access is incomplete (R222). -/
def restoreExMem (s : State) : State :=
  if s.dcacheStalled then { s with exmem := s.exmemCkpt } else s

/-- The low bytes of the store datum (R225). -/
def storeValue (e : ExMem) : Word :=
  BitVec.ofNat 64 (e.storeData.toNat % 2 ^ (8 * widthBytes e.mem.width))

/-- The data-cache access of a load or a store (R224, R225). -/
def dataAccess (p : Params) (s : State) : Access × State :=
  if s.exmem.mem.memRead then
    cacheRead p .dc s.exmem.aluResult (widthBytes s.exmem.mem.width) s
  else
    cacheWrite p .dc s.exmem.aluResult (widthBytes s.exmem.mem.width) (storeValue s.exmem) s

/-- An incomplete access (R226): checkpoint on the first cycle of the stall, and a `MEM_BUBBLE`. -/
def stallMemory (s : State) : State :=
  let s' := if s.dcacheStalled then s else { s with exmemCkpt := s.exmem, dcacheStalled := true }
  { s' with memwb := bubbleMemWb .memBubble s.exmem.pc }

/-- A completed access (R227). -/
def completeMemory (data : Word) (s : State) : State :=
  propagateMemHalt
    { s with
      dcacheStalled := false
      memwb := memWbOf s.exmem (if s.exmem.mem.memRead then data else 0) }

/-- No cache access is made for what `EXMEM` holds (R223). -/
def passesThrough (e : ExMem) : Bool := isBubble e.kind || (!e.mem.memRead && !e.mem.memWrite)

/-- `Memory()` on a state whose `EXMEM` has been restored. -/
def memoryMove (p : Params) (s : State) : State :=
  if passesThrough s.exmem then propagateMemHalt { s with memwb := memWbOf s.exmem 0 }
  else
    match dataAccess p s with
    | (.raised, s1) => s1
    | (.waiting _, s1) => stallMemory s1
    | (.done data _, s1) => completeMemory data s1

/-- `Memory()` (R230). -/
def memoryStage (p : Params) (s : State) : State :=
  if s.memHalted then s
  else if !s.exmem.valid then s
  else memoryMove p (restoreExMem s)

end Sys2Proof.Machine
end

