-- ==== Sys2Proof/Machine/Hazard.lean ====
section
/-!
DEFINITION. The hazard and forwarding unit (42_hazard_forwarding.md): one procedure, run at the start
of every cycle before any stage.
-/

namespace Sys2Proof.Machine

/-- `Produces(EXMEM, r)` (R149). -/
def exMemProduces (s : State) (r : Reg) : Bool :=
  s.exmem.valid && !isBubble s.exmem.kind && s.exmem.wb.regWrite && s.exmem.dst != zeroReg &&
    s.exmem.dst == r

/-- `Produces(MEMWB, r)` (R149). -/
def memWbProduces (s : State) (r : Reg) : Bool :=
  s.memwb.valid && !isBubble s.memwb.kind && s.memwb.wb.regWrite && s.memwb.dst != zeroReg &&
    s.memwb.dst == r

/-- The value `MEMWB` holds for its destination: the loaded datum, or the ALU result (R145,
45_memory_writeback.md R236). -/
def memWbValue (m : MemWb) : Word := if m.wb.memToReg then m.memData else m.aluResult

/-- One source slot (R142 to R146): whether it asks for a data stall, and its value after forwarding.
`needed` is the layout's need of the slot, `r` its register, `v` the value it has. -/
def forwardSlot (s : State) (needed : Bool) (r : Reg) (v : Word) : Bool × Word :=
  if !needed || r == zeroReg then (false, v)
  else if exMemProduces s r then
    if s.exmem.mem.memRead then (true, v) else (false, s.exmem.aluResult)
  else if memWbProduces s r then (false, memWbValue s.memwb)
  else (false, v)

/-- Slot `a` of the instruction in `DEEX`. -/
def slotA (s : State) : Bool × Word := forwardSlot s (needsA s.deex.layout) s.deex.srcA s.deex.valA

/-- Slot `b` of the instruction in `DEEX`. -/
def slotB (s : State) : Bool × Word := forwardSlot s (needsB s.deex.layout) s.deex.srcB s.deex.valB

/-- `EXMEM` has a pending flags update (R148). -/
def exMemUpdatesFlags (s : State) : Bool :=
  s.exmem.valid && !isBubble s.exmem.kind && s.exmem.wb.flagsUpdate

/-- `DEEX` after both slots are forwarded and the flags of `EXMEM` are applied to its copy. -/
def patchedDeEx (s : State) : DeEx :=
  let d := { s.deex with valA := (slotA s).2, valB := (slotB s).2 }
  if exMemUpdatesFlags s then { d with z := s.exmem.newZ, n := s.exmem.newN, flagsFwd := true } else d

/-- `HazardUnit()` (R140 to R148). -/
def hazardUnit (s : State) : State :=
  if !s.deex.valid || isBubble s.deex.kind then { s with dataStalled := false }
  else { s with deex := patchedDeEx s, dataStalled := (slotA s).1 || (slotB s).1 }

end Sys2Proof.Machine
end

