-- ==== Sys2Proof/Machine/Writeback.lean ====
section
/-!
DEFINITION. The Writeback stage (45_memory_writeback.md section 2).
-/

namespace Sys2Proof.Machine

/-- The register write of Writeback (R236). -/
def writebackReg (m : MemWb) (s : State) : State :=
  if m.wb.regWrite then writeReg m.dst (memWbValue m) s else s

/-- The flags update of Writeback (R237). -/
def writebackFlags (m : MemWb) (s : State) : State :=
  if m.wb.flagsUpdate then { s with z := m.newZ, n := m.newN } else s

/-- The stop of Writeback (R234): the halt instruction has been moved to `MEMWB`. -/
def writebackStop (s : State) : State := if s.memHalted then { s with status := .halted } else s

/-- Retire the instruction in `MEMWB` (R236 to R238). -/
def retire (m : MemWb) (s : State) : State :=
  let s' := writebackFlags m (writebackReg m s)
  { s' with retiredCount := s'.retiredCount + 1 }

/-- `Writeback()` (R239). -/
def writebackStage (s : State) : State :=
  if !s.memwb.valid then s
  else if isBubble s.memwb.kind then writebackStop s
  else retire s.memwb (writebackStop s)

end Sys2Proof.Machine
end

