-- ==== Sys2Proof/Machine/Driver.lean ====
section
/-!
DEFINITION. The per-cycle driver (46_driver.md): `StepCycle` over any parameters and any decoder
service, the inspection interface, and the cycle in which a given control record passes Decode, over
which every instruction's meaning is written.
-/

namespace Sys2Proof.Machine

/-- The decoder service (30_encoding.md R86, R87): a parameter of CORE, not state (10_state.md R46). -/
structure DecoderService where
  /-- `DECODE`. -/
  decode : Word32 → Decoded
  /-- `IsHalt`. -/
  isHalt : Word32 → Bool

/-- The stages in the driver's order, newest consumer first, up to Decode (46_driver.md R246). -/
def cycleToExecute (p : Params) (s : State) : State :=
  unlessFatal (executeStage p) (memoryStage p (writebackStage (hazardUnit s)))

/-- The two ticks, instruction cache first (46_driver.md R248), and the cycle counter. -/
def cycleEnd (p : Params) (s : State) : State :=
  unlessFatal (fun s => { s with cycleCount := s.cycleCount + 1 })
    (unlessFatal (cacheTick p .dc) (cacheTick p .ic s))

/-- `StepCycle()` (46_driver.md R246) with the decoder's answer for `IFDE.word` given: no stage before
Decode writes that word. A state that is not `RUNNING` does not change (R249). -/
def cycleWith (p : Params) (isHalt : Word32 → Bool) (d : Decoded) (s : State) : State :=
  if s.status = .running then
    unlessFatal (cycleEnd p)
      (unlessFatal (fetchStage p isHalt) (unlessFatal (decodeStage d) (cycleToExecute p s)))
  else s

/-- `StepCycle()` (46_driver.md R246) for any parameters and any decoder service. -/
def stepCycle (p : Params) (svc : DecoderService) (s : State) : State :=
  cycleWith p svc.isHalt (svc.decode s.ifde.word) s

/-- The meaning of an instruction by its control record: the cycle in which Decode finds it in `IFDE`.
If Decode is gated in that cycle (by a stall, a flush or a halt) the instruction waits, as
43_fetch_decode.md R167 to R171 say (DESIGN CHOICE, log entry 7). -/
def issueCycle (d : Decoded) (s : State) : Host.Outcome State Fault Refusal :=
  .next (cycleWith defaultParams refIsHalt d s)

/-- What the host may read between cycles (46_driver.md R251): nothing else is part of the
interface. -/
structure Inspection where
  x : Vector Word 32
  pc : Word
  z : Bool
  n : Bool
  status : Status
  cycleCount : BitVec 64
  retiredCount : BitVec 64
deriving DecidableEq, Repr

/-- Read-only inspection (46_driver.md R251): `x[31]` gives 0. -/
def inspect (s : State) : Inspection where
  x := s.regs.push 0
  pc := s.pc
  z := s.z
  n := s.n
  status := s.status
  cycleCount := s.cycleCount
  retiredCount := s.retiredCount

end Sys2Proof.Machine
end

