-- ==== Sys2Proof/Machine/Branches.lean ====
section
/-!
DEFINITION. The branches (47_refdec_instructions.md section 5).
For each instruction: the control record it decodes to (`rec…`), and its meaning (`exec…`), the cycle in
which Decode finds it in `IFDE`. What the instruction does after that cycle follows from the record and
the stages (47_refdec_instructions.md).
-/

namespace Sys2Proof.Machine

/-- The control record of `B` (R284). -/
def recB (imm26 : BitVec 26) : Decoded := branchRecord .uncond .eq (sext imm26)

/-- `B` (R284). -/
def execB (imm26 : BitVec 26) (s : State) : Host.Outcome State Fault Refusal :=
  issueCycle (recB imm26) s

/-- The control record of `B.EQ` (R285). -/
def recBEq (imm19 : BitVec 19) : Decoded := branchRecord .cond .eq (sext imm19)

/-- `B.EQ` (R285). -/
def execBEq (imm19 : BitVec 19) (s : State) : Host.Outcome State Fault Refusal :=
  issueCycle (recBEq imm19) s

/-- The control record of `B.NE` (R286). -/
def recBNe (imm19 : BitVec 19) : Decoded := branchRecord .cond .ne (sext imm19)

/-- `B.NE` (R286). -/
def execBNe (imm19 : BitVec 19) (s : State) : Host.Outcome State Fault Refusal :=
  issueCycle (recBNe imm19) s

/-- The control record of `B.GE` (R287). -/
def recBGe (imm19 : BitVec 19) : Decoded := branchRecord .cond .ge (sext imm19)

/-- `B.GE` (R287). -/
def execBGe (imm19 : BitVec 19) (s : State) : Host.Outcome State Fault Refusal :=
  issueCycle (recBGe imm19) s

/-- The control record of `B.LT` (R288). -/
def recBLt (imm19 : BitVec 19) : Decoded := branchRecord .cond .lt (sext imm19)

/-- `B.LT` (R288). -/
def execBLt (imm19 : BitVec 19) (s : State) : Host.Outcome State Fault Refusal :=
  issueCycle (recBLt imm19) s

/-- The control record of `B.GT` (R289). -/
def recBGt (imm19 : BitVec 19) : Decoded := branchRecord .cond .gt (sext imm19)

/-- `B.GT` (R289). -/
def execBGt (imm19 : BitVec 19) (s : State) : Host.Outcome State Fault Refusal :=
  issueCycle (recBGt imm19) s

/-- The control record of `B.LE` (R290). -/
def recBLe (imm19 : BitVec 19) : Decoded := branchRecord .cond .le (sext imm19)

/-- `B.LE` (R290). -/
def execBLe (imm19 : BitVec 19) (s : State) : Host.Outcome State Fault Refusal :=
  issueCycle (recBLe imm19) s

/-- The control record of `CBZ` (R291). -/
def recCbz (rt : Reg) (imm19 : BitVec 19) : Decoded := compareBranchRecord .cbz rt (sext imm19)

/-- `CBZ` (R291). -/
def execCbz (rt : Reg) (imm19 : BitVec 19) (s : State) : Host.Outcome State Fault Refusal :=
  issueCycle (recCbz rt imm19) s

/-- The control record of `CBNZ` (R292). -/
def recCbnz (rt : Reg) (imm19 : BitVec 19) : Decoded := compareBranchRecord .cbnz rt (sext imm19)

/-- `CBNZ` (R292). -/
def execCbnz (rt : Reg) (imm19 : BitVec 19) (s : State) : Host.Outcome State Fault Refusal :=
  issueCycle (recCbnz rt imm19) s

end Sys2Proof.Machine
end

