-- ==== Sys2Proof/Machine/ImmediateAlu.lean ====
section
/-!
DEFINITION. The immediate-format ALU instructions, the shifts and the wide move
(47_refdec_instructions.md sections 2 and 4).
For each instruction: the control record it decodes to (`rec…`), and its meaning (`exec…`), the cycle in
which Decode finds it in `IFDE`. What the instruction does after that cycle follows from the record and
the stages (47_refdec_instructions.md).
-/

namespace Sys2Proof.Machine

/-- The control record of `ADDI` (R269). -/
def recAddi (rd rn : Reg) (imm12 : BitVec 12) : Decoded := immRecord .add false rd rn (zext imm12)

/-- `ADDI` (R269). -/
def execAddi (rd rn : Reg) (imm12 : BitVec 12) (s : State) : Host.Outcome State Fault Refusal :=
  issueCycle (recAddi rd rn imm12) s

/-- The control record of `ADDIS` (R270). -/
def recAddis (rd rn : Reg) (imm12 : BitVec 12) : Decoded := immRecord .add true rd rn (zext imm12)

/-- `ADDIS` (R270). -/
def execAddis (rd rn : Reg) (imm12 : BitVec 12) (s : State) : Host.Outcome State Fault Refusal :=
  issueCycle (recAddis rd rn imm12) s

/-- The control record of `SUBI` (R271). -/
def recSubi (rd rn : Reg) (imm12 : BitVec 12) : Decoded := immRecord .sub false rd rn (zext imm12)

/-- `SUBI` (R271). -/
def execSubi (rd rn : Reg) (imm12 : BitVec 12) (s : State) : Host.Outcome State Fault Refusal :=
  issueCycle (recSubi rd rn imm12) s

/-- The control record of `SUBIS` (R272); with `Rd = 31` it is the compare `CMPI`. -/
def recSubis (rd rn : Reg) (imm12 : BitVec 12) : Decoded :=
  if rd = zeroReg then compareRecord (immRecord .sub true rd rn (zext imm12))
  else immRecord .sub true rd rn (zext imm12)

/-- `SUBIS` (R272). -/
def execSubis (rd rn : Reg) (imm12 : BitVec 12) (s : State) : Host.Outcome State Fault Refusal :=
  issueCycle (recSubis rd rn imm12) s

/-- The control record of `LSL` (R273). -/
def recLsl (rd rn : Reg) (shift : BitVec 6) : Decoded := immRecord .shl false rd rn (zext shift)

/-- `LSL` (R273). -/
def execLsl (rd rn : Reg) (shift : BitVec 6) (s : State) : Host.Outcome State Fault Refusal :=
  issueCycle (recLsl rd rn shift) s

/-- The control record of `LSR` (R274). -/
def recLsr (rd rn : Reg) (shift : BitVec 6) : Decoded := immRecord .shr false rd rn (zext shift)

/-- `LSR` (R274). -/
def execLsr (rd rn : Reg) (shift : BitVec 6) (s : State) : Host.Outcome State Fault Refusal :=
  issueCycle (recLsr rd rn shift) s

/-- The control record of `MOVZ` (R283). -/
def recMovz (rd : Reg) (hw : BitVec 2) (imm16 : BitVec 16) : Decoded :=
  immRecord .or false rd zeroReg (zext imm16 <<< (16 * hw.toNat))

/-- `MOVZ` (R283). -/
def execMovz (rd : Reg) (hw : BitVec 2) (imm16 : BitVec 16) (s : State) : Host.Outcome State Fault Refusal :=
  issueCycle (recMovz rd hw imm16) s

end Sys2Proof.Machine
end

