-- ==== Sys2Proof/Machine/LoadStore.lean ====
section
/-!
DEFINITION. The loads and stores (47_refdec_instructions.md section 3).
For each instruction: the control record it decodes to (`rec…`), and its meaning (`exec…`), the cycle in
which Decode finds it in `IFDE`. What the instruction does after that cycle follows from the record and
the stages (47_refdec_instructions.md).
-/

namespace Sys2Proof.Machine

/-- The control record of `LDUR` (R275). -/
def recLdur (rt rn : Reg) (simm9 : BitVec 9) : Decoded := loadRecord .b8 rt rn simm9

/-- `LDUR` (R275). -/
def execLdur (rt rn : Reg) (simm9 : BitVec 9) (s : State) : Host.Outcome State Fault Refusal :=
  issueCycle (recLdur rt rn simm9) s

/-- The control record of `LDURW` (R276). -/
def recLdurw (rt rn : Reg) (simm9 : BitVec 9) : Decoded := loadRecord .b4 rt rn simm9

/-- `LDURW` (R276). -/
def execLdurw (rt rn : Reg) (simm9 : BitVec 9) (s : State) : Host.Outcome State Fault Refusal :=
  issueCycle (recLdurw rt rn simm9) s

/-- The control record of `LDURH` (R277). -/
def recLdurh (rt rn : Reg) (simm9 : BitVec 9) : Decoded := loadRecord .b2 rt rn simm9

/-- `LDURH` (R277). -/
def execLdurh (rt rn : Reg) (simm9 : BitVec 9) (s : State) : Host.Outcome State Fault Refusal :=
  issueCycle (recLdurh rt rn simm9) s

/-- The control record of `LDURB` (R278). -/
def recLdurb (rt rn : Reg) (simm9 : BitVec 9) : Decoded := loadRecord .b1 rt rn simm9

/-- `LDURB` (R278). -/
def execLdurb (rt rn : Reg) (simm9 : BitVec 9) (s : State) : Host.Outcome State Fault Refusal :=
  issueCycle (recLdurb rt rn simm9) s

/-- The control record of `STUR` (R279). -/
def recStur (rt rn : Reg) (simm9 : BitVec 9) : Decoded := storeRecord .b8 rt rn simm9

/-- `STUR` (R279). -/
def execStur (rt rn : Reg) (simm9 : BitVec 9) (s : State) : Host.Outcome State Fault Refusal :=
  issueCycle (recStur rt rn simm9) s

/-- The control record of `STURW` (R280). -/
def recSturw (rt rn : Reg) (simm9 : BitVec 9) : Decoded := storeRecord .b4 rt rn simm9

/-- `STURW` (R280). -/
def execSturw (rt rn : Reg) (simm9 : BitVec 9) (s : State) : Host.Outcome State Fault Refusal :=
  issueCycle (recSturw rt rn simm9) s

/-- The control record of `STURH` (R281). -/
def recSturh (rt rn : Reg) (simm9 : BitVec 9) : Decoded := storeRecord .b2 rt rn simm9

/-- `STURH` (R281). -/
def execSturh (rt rn : Reg) (simm9 : BitVec 9) (s : State) : Host.Outcome State Fault Refusal :=
  issueCycle (recSturh rt rn simm9) s

/-- The control record of `STURB` (R282). -/
def recSturb (rt rn : Reg) (simm9 : BitVec 9) : Decoded := storeRecord .b1 rt rn simm9

/-- `STURB` (R282). -/
def execSturb (rt rn : Reg) (simm9 : BitVec 9) (s : State) : Host.Outcome State Fault Refusal :=
  issueCycle (recSturb rt rn simm9) s

end Sys2Proof.Machine
end

