-- ==== Sys2Proof/Machine/RegisterAlu.lean ====
section
/-!
DEFINITION. The register-format ALU instructions (47_refdec_instructions.md section 1).
For each instruction: the control record it decodes to (`rec…`), and its meaning (`exec…`), the cycle in
which Decode finds it in `IFDE`. What the instruction does after that cycle follows from the record and
the stages (47_refdec_instructions.md).
-/

namespace Sys2Proof.Machine

/-- The control record of `ADD` (R260). -/
def recAdd (rd rn rm : Reg) : Decoded := regRecord .add false rd rn rm

/-- `ADD` (R260). -/
def execAdd (rd rn rm : Reg) (s : State) : Host.Outcome State Fault Refusal :=
  issueCycle (recAdd rd rn rm) s

/-- The control record of `ADDS` (R261). -/
def recAdds (rd rn rm : Reg) : Decoded := regRecord .add true rd rn rm

/-- `ADDS` (R261). -/
def execAdds (rd rn rm : Reg) (s : State) : Host.Outcome State Fault Refusal :=
  issueCycle (recAdds rd rn rm) s

/-- The control record of `SUB` (R262). -/
def recSub (rd rn rm : Reg) : Decoded := regRecord .sub false rd rn rm

/-- `SUB` (R262). -/
def execSub (rd rn rm : Reg) (s : State) : Host.Outcome State Fault Refusal :=
  issueCycle (recSub rd rn rm) s

/-- The control record of `SUBS` (R263); with `Rd = 31` it is the compare `CMP`. -/
def recSubs (rd rn rm : Reg) : Decoded :=
  if rd = zeroReg then compareRecord (regRecord .sub true rd rn rm) else regRecord .sub true rd rn rm

/-- `SUBS` (R263). -/
def execSubs (rd rn rm : Reg) (s : State) : Host.Outcome State Fault Refusal :=
  issueCycle (recSubs rd rn rm) s

/-- The control record of `AND` (R264). -/
def recAnd (rd rn rm : Reg) : Decoded := regRecord .and false rd rn rm

/-- `AND` (R264). -/
def execAnd (rd rn rm : Reg) (s : State) : Host.Outcome State Fault Refusal :=
  issueCycle (recAnd rd rn rm) s

/-- The control record of `ANDS` (R265). -/
def recAnds (rd rn rm : Reg) : Decoded := regRecord .and true rd rn rm

/-- `ANDS` (R265). -/
def execAnds (rd rn rm : Reg) (s : State) : Host.Outcome State Fault Refusal :=
  issueCycle (recAnds rd rn rm) s

/-- The control record of `ORR` (R266). -/
def recOrr (rd rn rm : Reg) : Decoded := regRecord .or false rd rn rm

/-- `ORR` (R266). -/
def execOrr (rd rn rm : Reg) (s : State) : Host.Outcome State Fault Refusal :=
  issueCycle (recOrr rd rn rm) s

/-- The control record of `EOR` (R267). -/
def recEor (rd rn rm : Reg) : Decoded := regRecord .xor false rd rn rm

/-- `EOR` (R267). -/
def execEor (rd rn rm : Reg) (s : State) : Host.Outcome State Fault Refusal :=
  issueCycle (recEor rd rn rm) s

/-- The control record of `MUL` (R268). -/
def recMul (rd rn rm : Reg) : Decoded := regRecord .mul false rd rn rm

/-- `MUL` (R268). -/
def execMul (rd rn rm : Reg) (s : State) : Host.Outcome State Fault Refusal :=
  issueCycle (recMul rd rn rm) s

end Sys2Proof.Machine
end

