-- ==== Sys2Proof/Machine/System.lean ====
section
/-!
DEFINITION. `HLT` and `NOP` (47_refdec_instructions.md section 6).
For each instruction: the control record it decodes to (`rec…`), and its meaning (`exec…`), the cycle in
which Decode finds it in `IFDE`. What the instruction does after that cycle follows from the record and
the stages (47_refdec_instructions.md).
-/

namespace Sys2Proof.Machine

/-- The control record of `HLT` (R293); the immediate is ignored. -/
def recHlt (_imm16 : BitVec 16) : Decoded := systemRecord

/-- `HLT` (R293). -/
def execHlt (_imm16 : BitVec 16) (s : State) : Host.Outcome State Fault Refusal :=
  issueCycle (recHlt _imm16) s

/-- The control record of `NOP` (R294). -/
def recNop : Decoded := systemRecord

/-- `NOP` (R294). -/
def execNop (s : State) : Host.Outcome State Fault Refusal :=
  issueCycle recNop s

end Sys2Proof.Machine
end

