-- ==== Sys2Proof/Machine/Dispatch.lean ====
section
/-!
DEFINITION. The dispatch of an instruction to its meaning, one arm per constructor.
-/

namespace Sys2Proof.Machine

def exec (i : Instr) (s : State) : Host.Outcome State Fault Refusal :=
  match i with
  | .add rd rn rm => Sys2Proof.Machine.execAdd rd rn rm s
  | .adds rd rn rm => Sys2Proof.Machine.execAdds rd rn rm s
  | .sub rd rn rm => Sys2Proof.Machine.execSub rd rn rm s
  | .subs rd rn rm => Sys2Proof.Machine.execSubs rd rn rm s
  | .and rd rn rm => Sys2Proof.Machine.execAnd rd rn rm s
  | .ands rd rn rm => Sys2Proof.Machine.execAnds rd rn rm s
  | .orr rd rn rm => Sys2Proof.Machine.execOrr rd rn rm s
  | .eor rd rn rm => Sys2Proof.Machine.execEor rd rn rm s
  | .mul rd rn rm => Sys2Proof.Machine.execMul rd rn rm s
  | .addi rd rn imm12 => Sys2Proof.Machine.execAddi rd rn imm12 s
  | .addis rd rn imm12 => Sys2Proof.Machine.execAddis rd rn imm12 s
  | .subi rd rn imm12 => Sys2Proof.Machine.execSubi rd rn imm12 s
  | .subis rd rn imm12 => Sys2Proof.Machine.execSubis rd rn imm12 s
  | .lsl rd rn shift => Sys2Proof.Machine.execLsl rd rn shift s
  | .lsr rd rn shift => Sys2Proof.Machine.execLsr rd rn shift s
  | .ldur rt rn simm9 => Sys2Proof.Machine.execLdur rt rn simm9 s
  | .ldurw rt rn simm9 => Sys2Proof.Machine.execLdurw rt rn simm9 s
  | .ldurh rt rn simm9 => Sys2Proof.Machine.execLdurh rt rn simm9 s
  | .ldurb rt rn simm9 => Sys2Proof.Machine.execLdurb rt rn simm9 s
  | .stur rt rn simm9 => Sys2Proof.Machine.execStur rt rn simm9 s
  | .sturw rt rn simm9 => Sys2Proof.Machine.execSturw rt rn simm9 s
  | .sturh rt rn simm9 => Sys2Proof.Machine.execSturh rt rn simm9 s
  | .sturb rt rn simm9 => Sys2Proof.Machine.execSturb rt rn simm9 s
  | .movz rd hw imm16 => Sys2Proof.Machine.execMovz rd hw imm16 s
  | .b imm26 => Sys2Proof.Machine.execB imm26 s
  | .bEq imm19 => Sys2Proof.Machine.execBEq imm19 s
  | .bNe imm19 => Sys2Proof.Machine.execBNe imm19 s
  | .bGe imm19 => Sys2Proof.Machine.execBGe imm19 s
  | .bLt imm19 => Sys2Proof.Machine.execBLt imm19 s
  | .bGt imm19 => Sys2Proof.Machine.execBGt imm19 s
  | .bLe imm19 => Sys2Proof.Machine.execBLe imm19 s
  | .cbz rt imm19 => Sys2Proof.Machine.execCbz rt imm19 s
  | .cbnz rt imm19 => Sys2Proof.Machine.execCbnz rt imm19 s
  | .hlt imm16 => Sys2Proof.Machine.execHlt imm16 s
  | .nop => Sys2Proof.Machine.execNop s

end Sys2Proof.Machine
end

