-- ==== Sys2Proof/Machine/Step.lean ====
section
/-!
DEFINITION. One step of CORE is one `StepCycle` (46_driver.md R246). The instruction a cycle decodes is
the word in `IFDE`; if it decodes, the step is that instruction's meaning, and if it does not, the cycle
in which Decode finds an `INVALID` word there.
-/

namespace Sys2Proof.Machine

/-- `StepCycle()` with the default parameters and `REFDEC` (46_driver.md R246). -/
def step (s : State) : Host.Outcome State Fault Refusal :=
  match decodeWord s.ifde.word with
  | .ok i => exec i s
  | .error _ => issueCycle invalidRecord s

/-- The state with an instruction placed where the next step takes it from: in backing memory at `PC`,
and in `IFDE` as the completed fetch of that word leaves it (43_fetch_decode.md R161 to R164), so that
the next cycle decodes it (log entry 3). -/
def State.withFetchWord (s : State) (nbits w : Nat) : State :=
  deliverWord refIsHalt (tableWord nbits w) (hostWriteWord s.pc (tableWord nbits w) s)

end Sys2Proof.Machine
end

