-- ==== Sys2Proof/Machine/Refdec.lean ====
section
/-!
DEFINITION. The reference decoder as a decoder service (30_encoding.md R86, R87, Part B): the control
record of every instruction, and the contract every decoder service must meet.
-/

namespace Sys2Proof.Machine

/-- The control record an instruction decodes to (47_refdec_instructions.md R260 to R295). -/
def recordOf (i : Instr) : Decoded :=
  match i with
  | .add rd rn rm => recAdd rd rn rm
  | .adds rd rn rm => recAdds rd rn rm
  | .sub rd rn rm => recSub rd rn rm
  | .subs rd rn rm => recSubs rd rn rm
  | .and rd rn rm => recAnd rd rn rm
  | .ands rd rn rm => recAnds rd rn rm
  | .orr rd rn rm => recOrr rd rn rm
  | .eor rd rn rm => recEor rd rn rm
  | .mul rd rn rm => recMul rd rn rm
  | .addi rd rn imm12 => recAddi rd rn imm12
  | .addis rd rn imm12 => recAddis rd rn imm12
  | .subi rd rn imm12 => recSubi rd rn imm12
  | .subis rd rn imm12 => recSubis rd rn imm12
  | .lsl rd rn shift => recLsl rd rn shift
  | .lsr rd rn shift => recLsr rd rn shift
  | .ldur rt rn simm9 => recLdur rt rn simm9
  | .ldurw rt rn simm9 => recLdurw rt rn simm9
  | .ldurh rt rn simm9 => recLdurh rt rn simm9
  | .ldurb rt rn simm9 => recLdurb rt rn simm9
  | .stur rt rn simm9 => recStur rt rn simm9
  | .sturw rt rn simm9 => recSturw rt rn simm9
  | .sturh rt rn simm9 => recSturh rt rn simm9
  | .sturb rt rn simm9 => recSturb rt rn simm9
  | .movz rd hw imm16 => recMovz rd hw imm16
  | .b imm26 => recB imm26
  | .bEq imm19 => recBEq imm19
  | .bNe imm19 => recBNe imm19
  | .bGe imm19 => recBGe imm19
  | .bLt imm19 => recBLt imm19
  | .bGt imm19 => recBGt imm19
  | .bLe imm19 => recBLe imm19
  | .cbz rt imm19 => recCbz rt imm19
  | .cbnz rt imm19 => recCbnz rt imm19
  | .hlt imm16 => recHlt imm16
  | .nop => recNop

/-- `REFDEC` as `DECODE` (R101, R102): the record of the instruction, or `INVALID`. -/
def refDecode (w : Word32) : Decoded :=
  match decodeWord w with
  | .ok i => recordOf i
  | .error _ => invalidRecord

/-- `REFDEC`, the default decoder service (00_scope.md R5). -/
def refdec : DecoderService := { decode := refDecode, isHalt := refIsHalt }

/-- Items 3 to 6 and 8 of the decoder contract for one record that is not `INVALID`
(30_encoding.md R86). -/
def recordMeetsContract (d : Decoded) : Prop :=
  (d.kind = .control ↔ d.ex.brKind ≠ .none) ∧
  (d.kind = .control → d.mem.isBranch = true ∧ d.wb.regWrite = false ∧ d.wb.flagsUpdate = false ∧
    d.mem.memRead = false ∧ d.mem.memWrite = false) ∧
  (d.kind ≠ .control → d.mem.isBranch = false) ∧
  d.mem.condMet = false ∧
  ¬(d.mem.memRead = true ∧ d.mem.memWrite = true) ∧
  (d.kind = .dataMove ↔ d.mem.memRead = true ∨ d.mem.memWrite = true) ∧
  d.wb.memToReg = d.mem.memRead ∧
  (needsA d.layout = false → d.srcA = zeroReg) ∧
  (needsB d.layout = false → d.srcB = zeroReg) ∧
  (d.wb.regWrite = false → d.dst = zeroReg) ∧
  (d.ex.brKind = .cbz ∨ d.ex.brKind = .cbnz → d.layout = .cb) ∧
  (d.ex.brKind = .uncond ∨ d.ex.brKind = .cond → d.layout = .b)

/-- The contract of a decoder service (30_encoding.md R86, R87). Items 1 and 7 (no bubble kind, fields
already extended to 64 bits) beside `recordMeetsContract`; a record of kind `INVALID` has no other
meaning (item 2). -/
def meetsContract (svc : DecoderService) : Prop :=
  (∀ w, isBubble (svc.decode w).kind = false) ∧
  (∀ w, (svc.decode w).kind ≠ .invalid → recordMeetsContract (svc.decode w)) ∧
  (∀ w, svc.isHalt w = true →
    (svc.decode w).kind = .other ∧ (svc.decode w).layout = .none ∧
    (svc.decode w).wb.regWrite = false ∧ (svc.decode w).wb.flagsUpdate = false ∧
    (svc.decode w).mem.memRead = false ∧ (svc.decode w).mem.memWrite = false)

end Sys2Proof.Machine
end

