-- ==== Sys2Proof/Safety.lean ====
section
/-!
DEFINITION. The terms the statements are written in: states in which an instruction goes down the
pipeline by itself, what such a run leaves unchanged, and the invariants of the machine.
-/

namespace Sys2Proof.Machine

/-- `k` cycles (46_driver.md R250), as the host runs the machine. -/
def runCycles (k : Nat) (s : State) : Host.Outcome State Fault Refusal :=
  Host.Core.run Sys2Proof.core k s

/-! ## Where an instruction goes down the pipeline by itself -/

/-- `IFDE` holds a fetched word that Decode decodes unless it is gated (43_fetch_decode.md R169 to
R171). -/
def IfdeReady (s : State) : Prop :=
  s.ifde.valid = true ∧ s.ifde.memStall = false ∧ s.ifde.squash = false ∧ s.ifde.flush = false

/-- An inter-stage register holds no instruction: never filled, or a bubble. -/
def SlotIdle (valid : Bool) (k : Kind) : Prop := valid = true → isBubble k = true

/-- No instruction is in `DEEX`, `EXMEM` or `MEMWB`. -/
def PipeEmpty (s : State) : Prop :=
  SlotIdle s.deex.valid s.deex.kind ∧ SlotIdle s.exmem.valid s.exmem.kind ∧
    SlotIdle s.memwb.valid s.memwb.kind

/-- The machine runs and nothing that outlives a cycle gates Decode or a stage after it.
(`data_stalled` is computed anew in every cycle, 42_hazard_forwarding.md R140.) -/
def BackEndOpen (s : State) : Prop :=
  s.status = .running ∧ s.dcacheStalled = false ∧ s.deHalted = false ∧ s.exHalted = false ∧
    s.memHalted = false

/-- Neither cache has an outstanding miss. -/
def NoQueries (s : State) : Prop := s.ic.queries = [] ∧ s.dc.queries = []

/-- The fetch behind the instruction in `IFDE` misses, so that nothing younger follows it while it goes
down the pipeline. -/
def FetchMisses (s : State) : Prop :=
  crossesBlock defaultParams s.pc 4 = false ∧ cacheLookup defaultParams .ic s.pc s = none

/-- An instruction waits in `IFDE` with nothing before it in the pipeline and nothing right behind it:
it goes through Decode, Execute, Memory and Writeback in this cycle and the next three, "as if executed
alone" (47_refdec_instructions.md). -/
def IssuesAlone (s : State) : Prop :=
  IfdeReady s ∧ PipeEmpty s ∧ BackEndOpen s ∧ s.controlStalled = false ∧ s.feHalted = false ∧
    NoQueries s ∧ FetchMisses s

/-- The same with the halt instruction in `IFDE`: Fetch, having fetched it, has stopped
(43_fetch_decode.md R164). -/
def HaltIssuesAlone (s : State) : Prop :=
  IfdeReady s ∧ PipeEmpty s ∧ BackEndOpen s ∧ s.controlStalled = false ∧ s.feHalted = true ∧ NoQueries s

/-! ## What a run of one instruction leaves unchanged -/

/-- What every instruction that is no branch and no halt leaves as it was when it has gone through
alone: the machine runs on with nothing in the pipeline, `PC`, the predictor, the gating flags and the
lines of the instruction cache are the same, four cycles have passed and one instruction has retired. -/
def AloneFrame (s u : State) : Prop :=
  u.status = .running ∧ PipeEmpty u ∧ u.pc = s.pc ∧ u.pred = s.pred ∧ u.ic.lines = s.ic.lines ∧
    u.controlStalled = false ∧ u.dcacheStalled = false ∧ u.feHalted = s.feHalted ∧
    u.deHalted = s.deHalted ∧ u.exHalted = s.exHalted ∧ u.memHalted = s.memHalted ∧
    u.cycleCount = s.cycleCount + 4 ∧ u.retiredCount = s.retiredCount + 1

/-- No data access was made: backing memory, the data cache and the timestamp counter are the same. -/
def DataUntouched (s u : State) : Prop := u.mem = s.mem ∧ u.dc = s.dc ∧ u.ts = s.ts

/-- One general register was written, unless it is the zero register (10_state.md R21), and no other. -/
def RegWritten (s u : State) (rd : Reg) (v : Word) : Prop :=
  ∀ r, readReg u r = if r = rd ∧ rd ≠ zeroReg then v else readReg s r

/-- No general register was written. -/
def RegsUnchanged (s u : State) : Prop := ∀ r, readReg u r = readReg s r

/-- Neither flag was written. -/
def FlagsUnchanged (s u : State) : Prop := u.z = s.z ∧ u.n = s.n

/-- The flags of a result (44_execute.md R193): `Z` whether it is 0, `N` its bit 63. -/
def FlagsOf (u : State) (res : Word) : Prop := u.z = decide (res = 0) ∧ u.n = res.getLsbD 63

/-- The effective address of a load or store (47_refdec_instructions.md section 3). -/
def effAddr (s : State) (rn : Reg) (simm9 : BitVec 9) : Word := readReg s rn + sext simm9

/-- A data access of `n` bytes at `a` lies in one block and hits, in the line `l` at index `i`. -/
def DataHits (s : State) (a : Word) (n : Nat) (i : Nat) (l : Line) : Prop :=
  crossesBlock defaultParams a n = false ∧ cacheLookup defaultParams .dc a s = some (i, l)

/-- One line of the data cache took the next timestamp (40_cache.md R117) and the given bytes; every
other line is the same, and no miss is outstanding. -/
def LineTouched (s u : State) (i : Nat) (l : Line) (bytes : List Byte) : Prop :=
  u.ts = s.ts + 1 ∧ u.dc.queries = [] ∧
    ∀ j, tableGet u.dc.lines j =
      if j = i then some { l with stamp := s.ts + 1, bytes := bytes } else tableGet s.dc.lines j

/-- The predictor after `Update(is_cond, taken, pc, target)` (41_predictor.md R131): the entry of `pc` is
written, and for a conditional branch its counter moves towards the outcome, without wrapping, and the
history takes the outcome in; nothing else of the three tables changes. -/
def PredictorTrained (b b' : Predictor) (isCond taken : Bool) (pc target : Word) : Prop :=
  (∀ i, tableGet b'.btb i =
    if i = (pc.extractLsb' 2 10).toNat then some { tag := pc, isCond := isCond, target := target }
    else tableGet b.btb i) ∧
  (∀ i, (phtGet b' i).toNat =
    if isCond = true ∧ i = (b.ghr ^^^ pc.extractLsb' 2 8).toNat then
      (if taken then min 3 ((phtGet b i).toNat + 1) else (phtGet b i).toNat - 1)
    else (phtGet b i).toNat) ∧
  b'.ghr = if isCond then b.ghr.extractLsb' 0 7 ++ BitVec.ofBool taken else b.ghr

/-- The access Memory works on: what `EXMEM` holds, restored from the checkpoint during a stall
(45_memory_writeback.md R222). -/
def memoryOperand (s : State) : ExMem := if s.dcacheStalled then s.exmemCkpt else s.exmem

/-- Memory has an instruction to work on (45_memory_writeback.md R221). -/
def MemoryRuns (s : State) : Prop := s.memHalted = false ∧ s.exmem.valid = true

/-- An instruction is retired by this cycle's Writeback (45_memory_writeback.md R233, R235). -/
def Retires (s : State) : Prop := s.memwb.valid = true ∧ isBubble s.memwb.kind = false

/-! ## What gates Decode and Fetch -/

/-- The state the hazard unit, Writeback, Memory and Execute leave to Decode (46_driver.md R246). -/
def beforeDecode (s : State) : State := cycleToExecute defaultParams s

/-- Memory raises `FATAL(BLOCK_CROSS)` in this cycle: what it works on is a load or a store whose access
leaves its block (45_memory_writeback.md R224, R225, 40_cache.md R112). -/
def MemoryFaults (s : State) : Prop :=
  MemoryRuns s ∧ passesThrough (memoryOperand s) = false ∧
    crossesBlock defaultParams (memoryOperand s).aluResult (widthBytes (memoryOperand s).mem.width) = true

/-- Decode does nothing in this cycle whatever `IFDE` holds: the halt instruction has passed, Memory left
a data miss incomplete (43_fetch_decode.md R167), the hazard unit asked for a data stall (R168), or
Memory raised a fault and the rest of the cycle is abandoned (60_exceptions.md R301). -/
def DecodeGated (s : State) : Prop :=
  s.deHalted = true ∨ (beforeDecode s).dcacheStalled = true ∨ (hazardUnit s).dataStalled = true ∨
    MemoryFaults s

/-- Decode takes the word in `IFDE` in this cycle (43_fetch_decode.md R172): nothing gates it, and
Execute asked for no flush. -/
def DecodeOpen (s : State) : Prop :=
  s.status = .running ∧ IfdeReady s ∧ (beforeDecode s).ifde.flush = false ∧ ¬DecodeGated s

/-- Fetch reads the instruction cache at `PC` in this cycle (43_fetch_decode.md R156 to R158): none of
its gates holds, no control stall is left after Execute, and neither Memory nor Decode raised a fault. -/
def FetchOpen (s : State) : Prop :=
  s.status = .running ∧ s.feHalted = false ∧ (beforeDecode s).dcacheStalled = false ∧
    (hazardUnit s).dataStalled = false ∧ (beforeDecode s).controlStalled = false ∧ ¬MemoryFaults s ∧
    (DecodeOpen s → ∃ i, decodeWord s.ifde.word = .ok i)

/-! ## Invariants -/

/-- Every address an instruction is or will be fetched from is a multiple of 4 (10_state.md R22). -/
def PcInv (s : State) : Prop :=
  s.pc.toNat % 4 = 0 ∧ (s.ifde.valid = true → s.ifde.pc.toNat % 4 = 0) ∧
    (s.deex.valid = true → s.deex.pc.toNat % 4 = 0) ∧
    ∀ i e, tableGet s.pred.btb i = some e → e.target.toNat % 4 = 0

/-- The lines of a cache: each in a way of the set of its block, holding a whole block of the address
space, stamped at least 1 and at most `TS` (10_state.md R42, R43); no block in two lines (40_cache.md
R111), no stamp in two lines. -/
def LinesInv (p : Params) (c : CacheId) (s : State) : Prop :=
  (∀ i l, tableGet (getCache c s).lines i = some l →
    i < setsOf p c * waysOf p c ∧ i / waysOf p c = l.tag % setsOf p c ∧
      (l.tag + 1) * p.block ≤ 2 ^ 64 ∧ l.bytes.length = p.block ∧ 1 ≤ l.stamp ∧ l.stamp ≤ s.ts) ∧
  (∀ i j l l', tableGet (getCache c s).lines i = some l → tableGet (getCache c s).lines j = some l' →
    l.tag = l'.tag ∨ l.stamp = l'.stamp → i = j)

/-- The queries of a cache (10_state.md R44, R45): bases are multiples of `BLOCK`, none twice, countdowns
are 1 to `MISS_LATENCY`, and a block that is on its way is in no line. -/
def QueriesInv (p : Params) (c : CacheId) (s : State) : Prop :=
  ((getCache c s).queries.map Query.base).Nodup ∧
  ∀ q ∈ (getCache c s).queries, q.base.toNat % p.block = 0 ∧ 1 ≤ q.rem ∧ q.rem ≤ missLatency ∧
    ∀ i l, tableGet (getCache c s).lines i = some l → l.tag ≠ blockNumber p q.base

/-- Both caches are as the cache rules leave them, and no stamp was given out twice (10_state.md R43). -/
def CacheInv (s : State) : Prop :=
  LinesInv defaultParams .ic s ∧ LinesInv defaultParams .dc s ∧
  QueriesInv defaultParams .ic s ∧ QueriesInv defaultParams .dc s ∧
  ∀ i j l l', tableGet s.ic.lines i = some l → tableGet s.dc.lines j = some l' → l.stamp ≠ l'.stamp

/-- The write-through invariant (20_memory.md R75): every valid line of the data cache holds the bytes
backing memory holds of its block. -/
def WriteThrough (s : State) : Prop :=
  ∀ i l, tableGet s.dc.lines i = some l →
    l.bytes = memBytes s.mem (tagBase defaultParams l.tag) defaultParams.block

/-- Each cache has at most one query (10_state.md R45): of the instruction cache, for the block of `PC`
while Fetch waits; of the data cache, for the block of the access in `EXMEM` while Memory waits. -/
def OneQueryInv (s : State) : Prop :=
  s.ic.queries.length ≤ 1 ∧ s.dc.queries.length ≤ 1 ∧
  (∀ q ∈ s.ic.queries, s.ifde.valid = true ∧ s.ifde.memStall = true ∧
    q.base = blockBase defaultParams s.pc) ∧
  (∀ q ∈ s.dc.queries, s.dcacheStalled = true ∧
    q.base = blockBase defaultParams s.exmem.aluResult) ∧
  (s.dcacheStalled = true → s.exmem = s.exmemCkpt)

/-- The halt cascade (43_fetch_decode.md R164, R175, 44_execute.md R203, 45_memory_writeback.md R229,
R234): each halted flag says that the halt instruction is in the register that flag's stage filled, and
`control_stalled` does not outlive a cycle. -/
def HaltInv (s : State) : Prop :=
  s.controlStalled = false ∧
  (s.feHalted = true → IfdeReady s ∧ refIsHalt s.ifde.word = true) ∧
  (s.deHalted = true → s.feHalted = true ∧ s.deex.valid = true ∧ s.deex.kind = .other ∧
    s.deex.layout = .none ∧ s.deex.mem = MemCtl.zero ∧ s.deex.wb = WbCtl.zero) ∧
  (s.exHalted = true → s.deHalted = true ∧ s.dcacheStalled = false ∧ s.exmem.valid = true ∧
    s.exmem.kind = .other ∧ s.exmem.mem = MemCtl.zero ∧ s.exmem.wb = WbCtl.zero) ∧
  (s.memHalted = true → s.exHalted = true ∧ s.memwb.valid = true ∧ s.memwb.kind = .other ∧
    s.memwb.wb = WbCtl.zero) ∧
  (s.status = .halted → s.memHalted = true)

end Sys2Proof.Machine
end

