-- ==== Sys2Proof/Certificates/Slice0/Obligations.lean ====
section
/-!
DEFINITION. The statements for the provers. Each docstring names the rules of spec/ it formalises; where a
clause rests on a choice of the model, it names the log entry.
-/

section Statements
open Sys2Proof Sys2Proof.Machine

/-! ## Encoding (30_encoding.md Part B) -/

/-- Decoding the word of a well-formed instruction gives the instruction back, from the word and from
its four bytes in memory order (R90 to R101). -/
def Obligations.DecodeOfEncode : Prop :=
  ∀ i : Instr, i.wellFormed = true →
    decodeWord (encode i) = .ok i ∧ decodeTableWord 32 (encode i).toNat = some i

/-- A word that decodes is the word of the well-formed instruction it decodes to: no bit is dropped
(R90 to R101). -/
def Obligations.EncodeOfDecode : Prop :=
  ∀ (w : Word32) (i : Instr), decodeWord w = .ok i → i.wellFormed = true ∧ encode i = w

/-- No word matches two patterns of the opcode map (R101). -/
def Obligations.OpcodeMapDisjoint : Prop :=
  opcodeMap.Pairwise fun r r' => ∀ w : Word32, ¬(w &&& r.mask = r.pattern ∧ w &&& r'.mask = r'.pattern)

/-- The decoder takes exactly the words that match a pattern of the opcode map, less the `UBFM` forms
that are neither `LSR` nor `LSL` (R93) and the conditional branches with another condition than the six
of R97; every other word is rejected (R102). -/
def Obligations.DecodableWords : Prop :=
  ∀ w : Word32, (∃ i, decodeWord w = .ok i) ↔
    ∃ r ∈ opcodeMap, w &&& r.mask = r.pattern ∧
      (r.pattern = 0xD3400000 →
        w.extractLsb' 10 6 = 63 ∨ w.extractLsb' 16 6 = w.extractLsb' 10 6 + 1) ∧
      (r.pattern = 0x54000000 →
        w.extractLsb' 0 4 ∈ [0x0#4, 0x1#4, 0xA#4, 0xB#4, 0xC#4, 0xD#4])

/-- Words written out in the spec decode to the instructions they stand for (the examples of R260, R263,
R273, R275, R281, R283, R284, R287, R292, R294). -/
def Obligations.DecodeExamples : Prop :=
  decodeWord 0x8B020023 = .ok (.add 3 1 2) ∧ decodeWord 0xEB02003F = .ok (.subs 31 1 2) ∧
  decodeWord 0xD37CEC22 = .ok (.lsl 2 1 4) ∧ decodeWord 0xF85F8124 = .ok (.ldur 4 9 (-8)) ∧
  decodeWord 0x78002123 = .ok (.sturh 3 9 2) ∧ decodeWord 0xD2820009 = .ok (.movz 9 0 0x1000) ∧
  decodeWord 0x17FFFFFE = .ok (.b (-2)) ∧ decodeWord 0x5400006A = .ok (.bGe 3) ∧
  decodeWord 0xB5FFFFA1 = .ok (.cbnz 1 (-3)) ∧ decodeWord 0xD503201F = .ok .nop

/-- `REFDEC` meets the contract of a decoder service (R86, R87). -/
def Obligations.RefdecMeetsContract : Prop := meetsContract refdec

/-- `IsHalt` is true for exactly the words of `HLT` (R99, R293). -/
def Obligations.IsHaltIsHlt : Prop :=
  ∀ w : Word32, refIsHalt w = true ↔ ∃ imm16, decodeWord w = .ok (.hlt imm16)

/-! ## The step (46_driver.md) -/

/-- A step runs the instruction that stands in `IFDE`: the word Decode reads in this cycle. It also does
so for a word placed there by `withFetchWord` (log entry 3), which leaves `PC` where the predictor
sends it. -/
def Obligations.StepRunsDecoded : Prop :=
  (∀ (s : State) (i : Instr), decodeWord s.ifde.word = .ok i → step s = exec i s) ∧
  (∀ (s : State) (w : Nat) (i : Instr), decodeTableWord 32 w = some i →
    step (s.withFetchWord 32 w) = exec i (s.withFetchWord 32 w) ∧
    memWordRead (s.withFetchWord 32 w).mem s.pc = (s.withFetchWord 32 w).ifde.word ∧
    (s.withFetchWord 32 w).ifde.pc = s.pc ∧
    (s.withFetchWord 32 w).pc = (predict s.pred s.pc).2)

/-- `StepCycle` is hazard unit, Writeback, Memory, Execute, Decode of the word that `IFDE` then holds, Fetch,
the two ticks and the cycle count, in this order; after a fault the rest is not executed, and a machine
that is not `RUNNING` does nothing (R246, R249). -/
def Obligations.StepIsStagesInOrder : Prop :=
  ∀ s : State, step s = .next
    (if s.status = .running then
      unlessFatal (fun u => { u with cycleCount := u.cycleCount + 1 })
        (unlessFatal (cacheTick defaultParams .dc)
          (unlessFatal (cacheTick defaultParams .ic)
            (unlessFatal (fetchStage defaultParams refIsHalt)
              (unlessFatal (fun u => decodeStage (refDecode u.ifde.word) u)
                (unlessFatal (executeStage defaultParams)
                  (memoryStage defaultParams (writebackStage (hazardUnit s))))))))
    else s)

/-- A machine that has halted or faulted does not change, whatever instruction stands in `IFDE`
(R249). -/
def Obligations.StoppedMachineStays : Prop :=
  ∀ s : State, s.status ≠ .running → step s = .next s ∧ ∀ i, exec i s = .next s

/-! ## Reset (10_state.md R47, 46_driver.md R245) -/

/-- After `Initialize` every piece of state has its reset value, whatever the machine was before, and
backing memory is as it was (R47, R245). -/
def Obligations.InitializeValues : Prop :=
  ∀ (p : Params) (s : State),
    (∀ r, readReg (initCore p s) r = 0) ∧ (initCore p s).pc = p.entryPC ∧
    (initCore p s).z = false ∧ (initCore p s).n = false ∧
    (initCore p s).controlStalled = false ∧ (initCore p s).dataStalled = false ∧
    (initCore p s).dcacheStalled = false ∧ (initCore p s).feHalted = false ∧
    (initCore p s).deHalted = false ∧ (initCore p s).exHalted = false ∧
    (initCore p s).memHalted = false ∧ (initCore p s).status = .running ∧
    (initCore p s).cycleCount = 0 ∧ (initCore p s).retiredCount = 0 ∧
    (initCore p s).ifde.valid = false ∧ (initCore p s).deex.valid = false ∧
    (initCore p s).exmem.valid = false ∧ (initCore p s).memwb.valid = false ∧
    (initCore p s).pred.ghr = 0 ∧ (∀ i, phtGet (initCore p s).pred i = 0) ∧
    (∀ i, tableGet (initCore p s).pred.btb i = none) ∧
    (∀ c i, tableGet (getCache c (initCore p s)).lines i = none) ∧
    (∀ c, (getCache c (initCore p s)).queries = []) ∧ (initCore p s).ts = 0 ∧
    (initCore p s).mem = s.mem

/-- The invariants hold after reset, and after `Initialize` at any time. That the memory of the reset state
has the canonical form is the model's own choice of form and of an empty memory (log entry 2). -/
def Obligations.ResetSatisfiesInvariants : Prop :=
  Memory.wf State.reset.mem ∧
  ∀ s, (s = State.reset ∨ ∃ s', s = initCore defaultParams s') →
    PcInv s ∧ CacheInv s ∧ WriteThrough s ∧ OneQueryInv s ∧ HaltInv s

/-! ## Invariants every step keeps -/

/-- Every step keeps `PC`, the addresses in `IFDE` and `DEEX` and the targets in the BTB multiples of 4
(10_state.md R22). -/
def Obligations.StepKeepsPcAligned : Prop :=
  ∀ s t : State, PcInv s → step s = .next t → PcInv t

/-- Every step keeps the caches well formed: lines in the set of their block, no block twice, distinct
stamps of 1 to `TS`, queries of 1 to 10 cycles for blocks that no line holds (10_state.md R42 to R45,
40_cache.md R111). -/
def Obligations.StepKeepsCachesWellFormed : Prop :=
  ∀ s t : State, CacheInv s → step s = .next t → CacheInv t

/-- The write-through invariant: every step keeps the bytes of every data cache line equal to backing
memory (20_memory.md R75). -/
def Obligations.StepKeepsWriteThrough : Prop :=
  ∀ s t : State, CacheInv s → WriteThrough s → step s = .next t → WriteThrough t

/-- Every step keeps at most one query in each cache (10_state.md R45, 45_memory_writeback.md R231). -/
def Obligations.StepKeepsOneQuery : Prop :=
  ∀ s t : State, OneQueryInv s → step s = .next t → OneQueryInv t

/-- Every step keeps the halt cascade: a halted flag travels with the halt instruction, and
`control_stalled` is 0 between cycles (43_fetch_decode.md R164, R175, 44_execute.md R203,
45_memory_writeback.md R229). -/
def Obligations.StepKeepsHaltCascade : Prop :=
  ∀ s t : State, HaltInv s → step s = .next t → HaltInv t

/-- Every step keeps the canonical form of backing memory. The form is the model's own, with bytes
nothing has written reading as 0 (log entry 2). -/
def Obligations.StepKeepsMemoryForm : Prop :=
  ∀ s t : State, Memory.wf s.mem → step s = .next t → Memory.wf t.mem

/-- `NEG_COUNTDOWN`, `DUP_QUERY` and `BAD_CACHE_HANDLE` cannot be raised (60_exceptions.md R303). -/
def Obligations.NoInternalFault : Prop :=
  ∀ s t : State, CacheInv s → s.status = .running → step s = .next t →
    (∀ b, t.status ≠ .fatal (.negCountdown b)) ∧ (∀ b, t.status ≠ .fatal (.dupQuery b)) ∧
      t.status ≠ .fatal .badCacheHandle

/-- With `PC` aligned, a fetch never crosses a block: `BLOCK_CROSS` is raised only for the access of a
load or store in Memory, with its address (20_memory.md R66, 60_exceptions.md R302). -/
def Obligations.BlockCrossOnlyInMemory : Prop :=
  ∀ (s t : State) (a : Word), PcInv s → s.status = .running → step s = .next t →
    t.status = .fatal (.blockCross a) →
    MemoryRuns s ∧ isBubble (memoryOperand s).kind = false ∧
      ((memoryOperand s).mem.memRead = true ∨ (memoryOperand s).mem.memWrite = true) ∧
      a = (memoryOperand s).aluResult ∧
      defaultParams.block < a.toNat % defaultParams.block + widthBytes (memoryOperand s).mem.width

/-! ## Who changes what, over all states -/

/-- Only Writeback writes a general register: the destination of the instruction it retires, with the
loaded datum or the ALU result, and never the zero register (10_state.md R20, R21,
45_memory_writeback.md R236). -/
def Obligations.RegistersChangeByRetiring : Prop :=
  ∀ s t : State, s.status = .running → step s = .next t → ∀ r,
    ((Retires s ∧ s.memwb.wb.regWrite = true ∧ r = s.memwb.dst ∧ r ≠ zeroReg) →
      readReg t r = if s.memwb.wb.memToReg then s.memwb.memData else s.memwb.aluResult) ∧
    (¬(Retires s ∧ s.memwb.wb.regWrite = true ∧ r = s.memwb.dst ∧ r ≠ zeroReg) →
      readReg t r = readReg s r) ∧
    readReg t zeroReg = 0

/-- Only Writeback writes the flags, when the instruction it retires updates them, and the count of
retired instructions, once for each that is no bubble (10_state.md R23, R26, 45_memory_writeback.md
R237, R238). -/
def Obligations.FlagsAndCountChangeByRetiring : Prop :=
  ∀ s t : State, s.status = .running → step s = .next t →
    (Retires s ∧ s.memwb.wb.flagsUpdate = true → t.z = s.memwb.newZ ∧ t.n = s.memwb.newN) ∧
    (¬(Retires s ∧ s.memwb.wb.flagsUpdate = true) → t.z = s.z ∧ t.n = s.n) ∧
    (Retires s → t.retiredCount = s.retiredCount + 1) ∧
    (¬Retires s → t.retiredCount = s.retiredCount)

/-- The cycle count grows by 1 in every cycle of a running machine that does not end in a fatal fault,
and in no other (10_state.md R26). -/
def Obligations.CycleCountGrows : Prop :=
  ∀ s : State, ∃ t, step s = .next t ∧
    (s.status = .running → (∀ i, t.status ≠ .fatal i) → t.cycleCount = s.cycleCount + 1) ∧
    (s.status ≠ .running ∨ (∃ i, t.status = .fatal i) → t.cycleCount = s.cycleCount)

/-- Backing memory changes only where a store in Memory completes: a byte that changes is one of the
store's bytes and takes the store datum's byte (20_memory.md R60, R75, 45_memory_writeback.md R225). -/
def Obligations.MemoryChangesByStores : Prop :=
  ∀ s t : State, CacheInv s → WriteThrough s → s.status = .running → step s = .next t →
    ∀ a, memRead t.mem a ≠ memRead s.mem a →
      MemoryRuns s ∧ isBubble (memoryOperand s).kind = false ∧
      (memoryOperand s).mem.memRead = false ∧ (memoryOperand s).mem.memWrite = true ∧
      (a - (memoryOperand s).aluResult).toNat < widthBytes (memoryOperand s).mem.width ∧
      memRead t.mem a =
        (memoryOperand s).storeData.extractLsb' (8 * (a - (memoryOperand s).aluResult).toNat) 8

/-- The predictor changes only by the update for a branch that Execute executes, with the branch's own
address and target (41_predictor.md R134, 44_execute.md R201). -/
def Obligations.PredictorChangesByBranches : Prop :=
  ∀ s t : State, step s = .next t → t.pred ≠ s.pred →
    s.status = .running ∧ s.deex.valid = true ∧ s.deex.kind = .control ∧ s.exHalted = false ∧
    ∃ taken, PredictorTrained s.pred t.pred (decide (s.deex.ex.brKind ≠ .uncond)) taken s.deex.pc
      (s.deex.pc + 4 * s.deex.offset)

/-- `PC` is written only by Fetch, with the predicted next address of the word it fetched, and by the
misprediction repair, with the branch target or the address after the branch (10_state.md R22). -/
def Obligations.PcWriters : Prop :=
  ∀ s t : State, step s = .next t → t.pc ≠ s.pc →
    (t.pc = (predict t.pred s.pc).2 ∧ t.ifde.pc = s.pc ∧ t.ifde.predNext = t.pc ∧ IfdeReady t) ∨
    (s.deex.valid = true ∧ s.deex.kind = .control ∧ t.ifde.flush = true ∧
      (t.pc = s.deex.pc + 4 * s.deex.offset ∨ t.pc = s.deex.pc + 4))

/-- The end of a run: the machine halts in exactly the cycle that starts with `MEM_halted`. That cycle
retires the halt instruction and is counted, changes no register, flag, memory or `PC`, and leaves all
four halted flags set, `dcache_stalled` = 0 and no query (45_memory_writeback.md R234, 46_driver.md R250). -/
def Obligations.HaltEndsTheRun : Prop :=
  ∀ s : State, HaltInv s → OneQueryInv s → s.status = .running → ∃ t, step s = .next t ∧
    (t.status = .halted ↔ s.memHalted = true) ∧
    (s.memHalted = true →
      t.retiredCount = s.retiredCount + 1 ∧ t.cycleCount = s.cycleCount + 1 ∧ t.regs = s.regs ∧
      FlagsUnchanged s t ∧ DataUntouched s t ∧ t.pc = s.pc ∧ t.pred = s.pred ∧
      t.feHalted = true ∧ t.deHalted = true ∧ t.exHalted = true ∧ t.memHalted = true ∧
      t.dcacheStalled = false ∧ t.ic.queries = [] ∧ t.dc.queries = [])

/-! ## What each instruction does, issued alone (47_refdec_instructions.md)

`exec i s` is the cycle in which Decode takes the instruction; three more cycles take it through Execute,
Memory and Writeback. -/

/-- `ADD`, `SUB`, `AND`, `ORR`, `EOR`, `MUL`: the result goes to `Rd` (dropped when `Rd = 31`), flags and
everything else unchanged (R260, R262, R264, R266 to R268, 44_execute.md R184 to R188, R191). -/
def Obligations.RegisterAluCompletes : Prop :=
  ∀ (s : State) (rd rn rm : Reg), IssuesAlone s →
    ∀ iv ∈ [(Instr.add rd rn rm, BitVec.ofNat 64 ((readReg s rn).toNat + (readReg s rm).toNat)),
            (Instr.sub rd rn rm, BitVec.ofInt 64 (((readReg s rn).toNat : Int) - (readReg s rm).toNat)),
            (Instr.and rd rn rm, readReg s rn &&& readReg s rm),
            (Instr.orr rd rn rm, readReg s rn ||| readReg s rm),
            (Instr.eor rd rn rm, readReg s rn ^^^ readReg s rm),
            (Instr.mul rd rn rm, BitVec.ofNat 64 ((readReg s rn).toNat * (readReg s rm).toNat))],
      ∃ t u, exec iv.1 s = .next t ∧ runCycles 3 t = .next u ∧
        AloneFrame s u ∧ DataUntouched s u ∧ RegWritten s u rd iv.2 ∧ FlagsUnchanged s u

/-- `ADDS`, `SUBS`, `ANDS` and, with `Rd = 31`, `CMP`: the result goes to `Rd`, `Z` and `N` are those of
the result (R261, R263, R265, 44_execute.md R192, R193). -/
def Obligations.RegisterAluFlagsCompletes : Prop :=
  ∀ (s : State) (rd rn rm : Reg), IssuesAlone s →
    ∀ iv ∈ [(Instr.adds rd rn rm, BitVec.ofNat 64 ((readReg s rn).toNat + (readReg s rm).toNat)),
            (Instr.subs rd rn rm, BitVec.ofInt 64 (((readReg s rn).toNat : Int) - (readReg s rm).toNat)),
            (Instr.ands rd rn rm, readReg s rn &&& readReg s rm)],
      ∃ t u, exec iv.1 s = .next t ∧ runCycles 3 t = .next u ∧
        AloneFrame s u ∧ DataUntouched s u ∧ RegWritten s u rd iv.2 ∧ FlagsOf u iv.2

/-- `ADDI`, `SUBI`, `LSL`, `LSR`, `MOVZ`: the result goes to `Rd`, flags and everything else unchanged
(R269, R271, R273, R274, R283). -/
def Obligations.ImmediateAluCompletes : Prop :=
  ∀ (s : State) (rd rn : Reg) (imm12 : BitVec 12) (shift : BitVec 6) (hw : BitVec 2) (imm16 : BitVec 16),
    IssuesAlone s →
    ∀ iv ∈ [(Instr.addi rd rn imm12, BitVec.ofNat 64 ((readReg s rn).toNat + imm12.toNat)),
            (Instr.subi rd rn imm12, BitVec.ofInt 64 (((readReg s rn).toNat : Int) - imm12.toNat)),
            (Instr.lsl rd rn shift, BitVec.ofNat 64 ((readReg s rn).toNat * 2 ^ shift.toNat)),
            (Instr.lsr rd rn shift, BitVec.ofNat 64 ((readReg s rn).toNat / 2 ^ shift.toNat)),
            (Instr.movz rd hw imm16, BitVec.ofNat 64 (imm16.toNat * 2 ^ (16 * hw.toNat)))],
      ∃ t u, exec iv.1 s = .next t ∧ runCycles 3 t = .next u ∧
        AloneFrame s u ∧ DataUntouched s u ∧ RegWritten s u rd iv.2 ∧ FlagsUnchanged s u

/-- `ADDIS`, `SUBIS` and, with `Rd = 31`, `CMPI`: the result goes to `Rd`, `Z` and `N` are those of the
result (R270, R272). -/
def Obligations.ImmediateAluFlagsCompletes : Prop :=
  ∀ (s : State) (rd rn : Reg) (imm12 : BitVec 12), IssuesAlone s →
    ∀ iv ∈ [(Instr.addis rd rn imm12, BitVec.ofNat 64 ((readReg s rn).toNat + imm12.toNat)),
            (Instr.subis rd rn imm12, BitVec.ofInt 64 (((readReg s rn).toNat : Int) - imm12.toNat))],
      ∃ t u, exec iv.1 s = .next t ∧ runCycles 3 t = .next u ∧
        AloneFrame s u ∧ DataUntouched s u ∧ RegWritten s u rd iv.2 ∧ FlagsOf u iv.2

/-- `LDUR`, `LDURW`, `LDURH`, `LDURB` that hit in the data cache: `Rt` takes the bytes of memory at the
effective address, little-endian and zero-extended; the line is stamped and nothing else changes
(R275 to R278, 20_memory.md R64, 40_cache.md R114). -/
def Obligations.LoadsComplete : Prop :=
  ∀ (s : State) (rt rn : Reg) (simm9 : BitVec 9) (j : Nat) (l : Line), IssuesAlone s → WriteThrough s →
    ∀ iw ∈ [(Instr.ldur rt rn simm9, 8), (Instr.ldurw rt rn simm9, 4), (Instr.ldurh rt rn simm9, 2),
            (Instr.ldurb rt rn simm9, 1)],
      DataHits s (effAddr s rn simm9) iw.2 j l →
      ∃ t u, exec iw.1 s = .next t ∧ runCycles 3 t = .next u ∧ AloneFrame s u ∧
        RegWritten s u rt (BitVec.ofNat 64 (bytesValue (memBytes s.mem (effAddr s rn simm9) iw.2))) ∧
        FlagsUnchanged s u ∧ u.mem = s.mem ∧ LineTouched s u j l l.bytes

/-- `STUR`, `STURW`, `STURH`, `STURB` that hit in the data cache: the bytes at the effective address take
the low bytes of `Rt`, least significant first, every other byte of memory reads as before, the line
holds what memory holds, and no register or flag changes (R279 to R282, 40_cache.md R116). -/
def Obligations.StoresComplete : Prop :=
  ∀ (s : State) (rt rn : Reg) (simm9 : BitVec 9) (j : Nat) (l : Line), IssuesAlone s → WriteThrough s →
    ∀ iw ∈ [(Instr.stur rt rn simm9, 8), (Instr.sturw rt rn simm9, 4), (Instr.sturh rt rn simm9, 2),
            (Instr.sturb rt rn simm9, 1)],
      DataHits s (effAddr s rn simm9) iw.2 j l →
      ∃ t u, exec iw.1 s = .next t ∧ runCycles 3 t = .next u ∧ AloneFrame s u ∧
        RegsUnchanged s u ∧ FlagsUnchanged s u ∧
        (∀ a, memRead u.mem a =
          if (a - effAddr s rn simm9).toNat < iw.2 then
            (readReg s rt).extractLsb' (8 * (a - effAddr s rn simm9).toNat) 8
          else memRead s.mem a) ∧
        LineTouched s u j l
          (memBytes u.mem (blockBase defaultParams (effAddr s rn simm9)) defaultParams.block)

/-- A load or store that crosses a block boundary: `FATAL(BLOCK_CROSS)` with its address when it reaches
Memory, two cycles after Decode; it has written no register, flag, cache line or memory and has not
retired (20_memory.md R65, 60_exceptions.md R305). -/
def Obligations.CrossingAccessFaults : Prop :=
  ∀ (s : State) (rt rn : Reg) (simm9 : BitVec 9), IssuesAlone s →
    ∀ iw ∈ [(Instr.ldur rt rn simm9, 8), (Instr.ldurw rt rn simm9, 4), (Instr.ldurh rt rn simm9, 2),
            (Instr.stur rt rn simm9, 8), (Instr.sturw rt rn simm9, 4), (Instr.sturh rt rn simm9, 2)],
      defaultParams.block < (effAddr s rn simm9).toNat % defaultParams.block + iw.2 →
      ∃ t u, exec iw.1 s = .next t ∧ runCycles 2 t = .next u ∧
        u.status = .fatal (.blockCross (effAddr s rn simm9)) ∧
        RegsUnchanged s u ∧ FlagsUnchanged s u ∧ DataUntouched s u ∧
        u.retiredCount = s.retiredCount ∧ u.cycleCount = s.cycleCount + 2 ∧ step u = .next u

/-- `B`: always taken. One cycle after Decode `PC` is the target, or unchanged where the prediction was
right; the BTB has the entry and history and counters are untouched; at retirement no register, flag or
memory has changed (R284, 44_execute.md R194, R199 to R201). -/
def Obligations.BranchCompletes : Prop :=
  ∀ (s : State) (imm26 : BitVec 26), IssuesAlone s → s.ifde.pc.toNat % 4 = 0 →
    ∃ t v u, exec (.b imm26) s = .next t ∧ runCycles 1 t = .next v ∧ runCycles 2 v = .next u ∧
      v.pc = (if s.ifde.pc + 4 * sext imm26 = s.ifde.predNext then s.pc
        else s.ifde.pc + 4 * sext imm26) ∧
      PredictorTrained s.pred v.pred false true s.ifde.pc (s.ifde.pc + 4 * sext imm26) ∧
      RegsUnchanged s u ∧ FlagsUnchanged s u ∧ u.mem = s.mem ∧ u.dc = s.dc ∧ u.pred = v.pred ∧
      u.retiredCount = s.retiredCount + 1

/-- `B.EQ`, `B.NE`, `B.GE`, `B.LT`, `B.GT`, `B.LE`: taken by the flags; `PC` goes to the actual next
address unless it was predicted, the predictor learns the outcome, and no register, flag or memory changes
(R285 to R290, 30_encoding.md R83, 44_execute.md R195, R196). -/
def Obligations.CondBranchCompletes : Prop :=
  ∀ (s : State) (imm19 : BitVec 19), IssuesAlone s → s.ifde.pc.toNat % 4 = 0 →
    ∀ ic ∈ [(Instr.bEq imm19, s.z), (Instr.bNe imm19, !s.z), (Instr.bGe imm19, !s.n),
            (Instr.bLt imm19, s.n), (Instr.bGt imm19, !s.n && !s.z), (Instr.bLe imm19, s.n || s.z)],
      ∃ t v u next, exec ic.1 s = .next t ∧ runCycles 1 t = .next v ∧ runCycles 2 v = .next u ∧
        next = (if ic.2 then s.ifde.pc + 4 * sext imm19 else s.ifde.pc + 4) ∧
        v.pc = (if next = s.ifde.predNext then s.pc else next) ∧
        PredictorTrained s.pred v.pred true ic.2 s.ifde.pc (s.ifde.pc + 4 * sext imm19) ∧
        RegsUnchanged s u ∧ FlagsUnchanged s u ∧ u.mem = s.mem ∧ u.dc = s.dc ∧ u.pred = v.pred ∧
        u.retiredCount = s.retiredCount + 1

/-- `CBZ` and `CBNZ`: taken by whether the register is 0; the rest as for a conditional branch
(R291, R292, 44_execute.md R197, R198). -/
def Obligations.CompareBranchCompletes : Prop :=
  ∀ (s : State) (rt : Reg) (imm19 : BitVec 19), IssuesAlone s → s.ifde.pc.toNat % 4 = 0 →
    ∀ ic ∈ [(Instr.cbz rt imm19, decide (readReg s rt = 0)),
            (Instr.cbnz rt imm19, decide (readReg s rt ≠ 0))],
      ∃ t v u next, exec ic.1 s = .next t ∧ runCycles 1 t = .next v ∧ runCycles 2 v = .next u ∧
        next = (if ic.2 then s.ifde.pc + 4 * sext imm19 else s.ifde.pc + 4) ∧
        v.pc = (if next = s.ifde.predNext then s.pc else next) ∧
        PredictorTrained s.pred v.pred true ic.2 s.ifde.pc (s.ifde.pc + 4 * sext imm19) ∧
        RegsUnchanged s u ∧ FlagsUnchanged s u ∧ u.mem = s.mem ∧ u.dc = s.dc ∧ u.pred = v.pred ∧
        u.retiredCount = s.retiredCount + 1

/-- `HLT`: it drains through the pipeline setting `DE_halted`, `EX_halted`, `MEM_halted`, and when it
retires `STATUS` is `HALTED`; no register, flag, memory, predictor or cache changes (R293,
70_reset_and_hazards.md R332). -/
def Obligations.HaltCompletes : Prop :=
  ∀ (s : State) (imm16 : BitVec 16), HaltIssuesAlone s →
    ∃ t1 t2 t3 u, exec (.hlt imm16) s = .next t1 ∧ step t1 = .next t2 ∧ step t2 = .next t3 ∧
      step t3 = .next u ∧
      t1.deHalted = true ∧ t1.exHalted = false ∧ t2.exHalted = true ∧ t2.memHalted = false ∧
      t3.memHalted = true ∧ t3.status = .running ∧ u.status = .halted ∧
      u.retiredCount = s.retiredCount + 1 ∧ u.cycleCount = s.cycleCount + 4 ∧
      RegsUnchanged s u ∧ FlagsUnchanged s u ∧ DataUntouched s u ∧ u.pc = s.pc ∧ u.pred = s.pred ∧
      u.ic = s.ic

/-- `NOP`: no effect but its slot in every stage and its count (R294). -/
def Obligations.NopCompletes : Prop :=
  ∀ s : State, IssuesAlone s →
    ∃ t u, exec .nop s = .next t ∧ runCycles 3 t = .next u ∧
      AloneFrame s u ∧ DataUntouched s u ∧ RegsUnchanged s u ∧ FlagsUnchanged s u

/-! ## The stages, in the step -/

/-- Decode puts the instruction's record into `DEEX` with the snapshot, the prediction and the two registers
as Writeback has left them in this cycle, the zero register reading 0, and passes the halted flag on:
in every state whose Decode is not gated, whatever the other stages hold. A register that retires in this
very cycle is read with its new value; with nothing in the pipeline Decode is not gated and the registers
are those of before (43_fetch_decode.md R172 to R175). -/
def Obligations.DecodeFillsDeEx : Prop :=
  ∀ (s : State) (i : Instr),
    (DecodeOpen s → ∃ t, exec i s = .next t ∧
      t.deex.valid = true ∧ t.deex.kind = (recordOf i).kind ∧ t.deex.pc = s.ifde.pc ∧
      t.deex.z = s.ifde.z ∧ t.deex.n = s.ifde.n ∧ t.deex.flagsFwd = false ∧
      t.deex.predTaken = s.ifde.predTaken ∧ t.deex.predNext = s.ifde.predNext ∧
      t.deex.layout = (recordOf i).layout ∧ t.deex.srcA = (recordOf i).srcA ∧
      t.deex.srcB = (recordOf i).srcB ∧ t.deex.dst = (recordOf i).dst ∧
      t.deex.valA = readReg t (recordOf i).srcA ∧ t.deex.valB = readReg t (recordOf i).srcB ∧
      t.deex.imm = (recordOf i).imm ∧ t.deex.offset = (recordOf i).offset ∧
      t.deex.ex = (recordOf i).ex ∧ t.deex.mem = (recordOf i).mem ∧ t.deex.wb = (recordOf i).wb ∧
      t.deHalted = s.feHalted ∧
      (Retires s → s.memwb.wb.regWrite = true → s.memwb.dst ≠ zeroReg →
        ((recordOf i).srcA = s.memwb.dst → t.deex.valA = memWbValue s.memwb) ∧
        ((recordOf i).srcB = s.memwb.dst → t.deex.valB = memWbValue s.memwb))) ∧
    (IfdeReady s → PipeEmpty s → BackEndOpen s → DecodeOpen s ∧ ∃ t, exec i s = .next t ∧
      t.deex.valA = readReg s (recordOf i).srcA ∧ t.deex.valB = readReg s (recordOf i).srcB)

/-- An undecodable word that reaches Decode: `FATAL(DECODE_FAULT)` with the word and its address. What the
hazard unit, Writeback, Memory and Execute wrote in this cycle stays; Decode, Fetch, the ticks and the
cycle count do not happen. With nothing in the pipeline nothing architectural changes
(43_fetch_decode.md R172, 60_exceptions.md R301, R302). -/
def Obligations.UndecodableWordFaults : Prop :=
  ∀ (s : State) (e : Reject), decodeWord s.ifde.word = .error e →
    (DecodeOpen s → step s =
      .next { beforeDecode s with status := .fatal (.decodeFault s.ifde.word s.ifde.pc) }) ∧
    (IfdeReady s → PipeEmpty s → BackEndOpen s →
      ∃ t, step s = .next t ∧ t.status = .fatal (.decodeFault s.ifde.word s.ifde.pc) ∧
        t.deex = s.deex ∧ t.ifde = s.ifde ∧ t.pc = s.pc ∧ t.pred = s.pred ∧ t.ic = s.ic ∧
        RegsUnchanged s t ∧ FlagsUnchanged s t ∧ DataUntouched s t ∧
        t.cycleCount = s.cycleCount ∧ t.retiredCount = s.retiredCount)

/-- A word that a squash or a flush was requested for, be it by Execute in this very cycle, is never
decoded: it raises no `DECODE_FAULT` and no halt instruction in it is passed on. `DEEX` takes a
`CONTROL_BUBBLE` unless Decode is gated, and then it keeps what the hazard unit left in it
(43_fetch_decode.md R167 to R169). -/
def Obligations.SquashedWordNotDecoded : Prop :=
  ∀ s t : State, s.status = .running → s.ifde.valid = true →
    (s.ifde.squash = true ∨ s.ifde.flush = true ∨ (beforeDecode s).ifde.flush = true) →
    step s = .next t →
    (∀ w pc, t.status ≠ .fatal (.decodeFault w pc)) ∧ t.deHalted = s.deHalted ∧
      (¬DecodeGated s → t.deex = bubbleDeEx .controlBubble s.ifde.pc) ∧
      (DecodeGated s → t.deex = (hazardUnit s).deex)

/-- A fetch that hits, whatever the other stages hold and whether or not Decode takes a word in the same
cycle, delivers the word of the line at `PC`, which is memory's word where the line holds what memory
holds, with the flags as this cycle's Writeback leaves them and the prediction of the predictor as this
cycle's Execute leaves it. `PC` goes to the predicted next address, a halt word stops Fetch, and the line
takes the next timestamp (43_fetch_decode.md R161 to R164, 20_memory.md R63, 40_cache.md R114, R117). -/
def Obligations.FetchDelivers : Prop :=
  ∀ (s : State) (j : Nat) (l : Line), FetchOpen s → s.ic.queries = [] → s.pc.toNat % 4 = 0 →
    cacheLookup defaultParams .ic s.pc s = some (j, l) →
    ∃ t w, step s = .next t ∧ w = (lineData l (blockOffset defaultParams s.pc) 4).setWidth 32 ∧
      (l.bytes = memBytes s.mem (tagBase defaultParams l.tag) defaultParams.block →
        w = memWordRead s.mem s.pc) ∧
      t.ifde = { valid := true, memStall := false, squash := false, flush := false,
                 word := w, pc := s.pc, z := t.z, n := t.n,
                 predTaken := (predict t.pred s.pc).1, predNext := (predict t.pred s.pc).2 } ∧
      t.pc = (predict t.pred s.pc).2 ∧ t.feHalted = refIsHalt w ∧ t.ic.queries = [] ∧
      (∀ i, tableGet t.ic.lines i =
        if i = j then some { l with stamp := (beforeDecode s).ts + 1 } else tableGet s.ic.lines i) ∧
      (PipeEmpty s → t.z = s.z ∧ t.n = s.n ∧ t.pred = s.pred)

/-- Load-use: behind a load that hits, its consumer in `DEEX` is held one cycle. Execute gets a
`DATA_BUBBLE`, `DEEX`, `IFDE` and `PC` are kept, and in the next cycle the hazard unit forwards the loaded
datum and asks for no stall (42_hazard_forwarding.md R144, R145, R147, R150). -/
def Obligations.LoadUseStallsOnce : Prop :=
  ∀ (s : State) (j : Nat) (l : Line), BackEndOpen s → s.dc.queries = [] →
    s.exmem.valid = true → isBubble s.exmem.kind = false → s.exmem.mem.memRead = true →
    s.exmem.wb.regWrite = true → s.exmem.wb.memToReg = true → s.exmem.dst ≠ zeroReg →
    DataHits s s.exmem.aluResult (widthBytes s.exmem.mem.width) j l →
    s.deex.valid = true → isBubble s.deex.kind = false →
    ((needsA s.deex.layout = true ∧ s.deex.srcA = s.exmem.dst) ∨
      (needsB s.deex.layout = true ∧ s.deex.srcB = s.exmem.dst)) →
    ∃ t, step s = .next t ∧ t.exmem = bubbleExMem .dataBubble s.deex.pc ∧ t.ifde = s.ifde ∧
      t.pc = s.pc ∧ t.pred = s.pred ∧ t.deex = (hazardUnit s).deex ∧
      t.memwb.memData = lineData l (blockOffset defaultParams s.exmem.aluResult)
        (widthBytes s.exmem.mem.width) ∧
      (hazardUnit t).dataStalled = false ∧
      (needsA s.deex.layout = true → s.deex.srcA = s.exmem.dst →
        (hazardUnit t).deex.valA = t.memwb.memData) ∧
      (needsB s.deex.layout = true → s.deex.srcB = s.exmem.dst →
        (hazardUnit t).deex.valB = t.memwb.memData)

/-- While a data miss is on its way the pipeline behind Memory is frozen: `EXMEM`, `IFDE`, `PC`, the
predictor and the halted flags keep their values, `DEEX` changes by forwarding only, Writeback gets a
`MEM_BUBBLE` and memory does not change (45_memory_writeback.md R226, 44_execute.md R180,
43_fetch_decode.md R156, R167). -/
def Obligations.DataMissFreezes : Prop :=
  ∀ (s : State) (q : Query), s.status = .running → s.memHalted = false → s.dcacheStalled = true →
    s.exmem.valid = true → s.exmem = s.exmemCkpt → passesThrough s.exmem = false →
    crossesBlock defaultParams s.exmem.aluResult (widthBytes s.exmem.mem.width) = false →
    pendingQuery defaultParams .dc s.exmem.aluResult s = some q →
    ∃ t, step s = .next t ∧ t.dcacheStalled = true ∧ t.exmem = s.exmem ∧ t.ifde = s.ifde ∧
      t.pc = s.pc ∧ t.pred = s.pred ∧ t.mem = s.mem ∧ t.deex = (hazardUnit s).deex ∧
      t.memwb = bubbleMemWb .memBubble s.exmem.pc ∧ t.feHalted = s.feHalted ∧
      t.deHalted = s.deHalted ∧ t.exHalted = s.exHalted ∧ t.memHalted = false

/-- A load or store that misses stalls ten cycles, in which memory does not change, and completes in the
eleventh: a load with the bytes of memory, a store by writing its bytes and no others
(45_memory_writeback.md R227, R231, 40_cache.md R113, R116, R118, R119). -/
def Obligations.DataMissCompletes : Prop :=
  ∀ s : State, s.status = .running → s.memHalted = false → s.dcacheStalled = false →
    s.exmem.valid = true → isBubble s.exmem.kind = false →
    (s.exmem.mem.memRead = true ∨ s.exmem.mem.memWrite = true) →
    crossesBlock defaultParams s.exmem.aluResult (widthBytes s.exmem.mem.width) = false →
    s.dc.queries = [] → QueriesInv defaultParams .ic s →
    cacheLookup defaultParams .dc s.exmem.aluResult s = none →
    ∃ t u, runCycles 10 s = .next t ∧ step t = .next u ∧
      t.dcacheStalled = true ∧ t.exmem = s.exmem ∧ t.ifde = s.ifde ∧ t.pc = s.pc ∧ t.mem = s.mem ∧
      t.cycleCount = s.cycleCount + 10 ∧
      u.dcacheStalled = false ∧
      u.memwb = { valid := true, kind := s.exmem.kind, pc := s.exmem.pc, aluResult := s.exmem.aluResult,
                  memData := if s.exmem.mem.memRead then BitVec.ofNat 64
                    (bytesValue (memBytes s.mem s.exmem.aluResult (widthBytes s.exmem.mem.width))) else 0,
                  dst := s.exmem.dst, wb := s.exmem.wb, newZ := s.exmem.newZ, newN := s.exmem.newN } ∧
      ∀ a, memRead u.mem a =
        if s.exmem.mem.memRead = false ∧
            (a - s.exmem.aluResult).toNat < widthBytes s.exmem.mem.width then
          s.exmem.storeData.extractLsb' (8 * (a - s.exmem.aluResult).toNat) 8
        else memRead s.mem a

/-- Misprediction repair: where the executed branch goes elsewhere than predicted, `PC` takes the actual
next address, the word fetched behind the branch becomes a `CONTROL_BUBBLE` and will not be decoded, a
fetch miss behind it is cancelled, a halt fetched behind it is undone, the predictor learns, and no
register, flag or memory changes (44_execute.md R200, R201, R205, R206). -/
def Obligations.MispredictionRepair : Prop :=
  ∀ (s : State), BackEndOpen s → SlotIdle s.exmem.valid s.exmem.kind →
    SlotIdle s.memwb.valid s.memwb.kind → NoQueries s ∨ (OneQueryInv s ∧ s.dc.queries = []) →
    s.ifde.valid = true → s.deex.valid = true → s.deex.kind = .control →
    actualNext s ≠ s.deex.predNext →
    ∃ t, step s = .next t ∧ t.status = .running ∧ t.pc = actualNext s ∧
      t.deex = bubbleDeEx .controlBubble s.ifde.pc ∧ t.ifde.squash = true ∧ t.ifde.flush = true ∧
      t.ifde.word = s.ifde.word ∧ t.controlStalled = false ∧ t.feHalted = false ∧
      t.deHalted = false ∧ t.exmem.kind = .control ∧ t.exmem.mem.condMet = branchTaken s ∧
      t.ic.queries = [] ∧
      PredictorTrained s.pred t.pred (decide (s.deex.ex.brKind ≠ .uncond)) (branchTaken s) s.deex.pc
        (s.deex.pc + 4 * s.deex.offset) ∧
      RegsUnchanged s t ∧ FlagsUnchanged s t ∧ DataUntouched s t

/-- A correct prediction costs nothing: the word fetched behind the branch is decoded in this very cycle,
and the predictor learns (44_execute.md R199, R201, R206). -/
def Obligations.CorrectPrediction : Prop :=
  ∀ (s : State) (i : Instr), BackEndOpen s → SlotIdle s.exmem.valid s.exmem.kind →
    SlotIdle s.memwb.valid s.memwb.kind → IfdeReady s → decodeWord s.ifde.word = .ok i →
    s.deex.valid = true → s.deex.kind = .control → actualNext s = s.deex.predNext →
    ∃ t, step s = .next t ∧ t.deex.valid = true ∧ t.deex.kind = (recordOf i).kind ∧
      t.deex.pc = s.ifde.pc ∧ t.exmem.kind = .control ∧ t.exmem.pc = s.deex.pc ∧
      t.exmem.mem.condMet = branchTaken s ∧
      PredictorTrained s.pred t.pred (decide (s.deex.ex.brKind ≠ .uncond)) (branchTaken s) s.deex.pc
        (s.deex.pc + 4 * s.deex.offset) ∧
      RegsUnchanged s t ∧ FlagsUnchanged s t

/-! ## Hazards and forwarding (42_hazard_forwarding.md) -/

/-- The Execute-Memory check: a needed slot whose register the instruction in `EXMEM` writes with its ALU
result takes that result (R143, R149). -/
def Obligations.ForwardsFromExMem : Prop :=
  ∀ s : State, s.deex.valid = true → isBubble s.deex.kind = false →
    s.exmem.valid = true → isBubble s.exmem.kind = false → s.exmem.wb.regWrite = true →
    s.exmem.dst ≠ zeroReg → s.exmem.mem.memRead = false →
    (needsA s.deex.layout = true → s.deex.srcA = s.exmem.dst →
      (hazardUnit s).deex.valA = s.exmem.aluResult) ∧
    (needsB s.deex.layout = true → s.deex.srcB = s.exmem.dst →
      (hazardUnit s).deex.valB = s.exmem.aluResult)

/-- What each slot holds after the hazard unit. A slot that the layout does not need, or of the zero
register, keeps its value, whatever `EXMEM` and `MEMWB` write. A slot whose register a load in `EXMEM`
writes keeps its value too, and `MEMWB` is not looked at; one that another instruction in `EXMEM` writes
takes its ALU result. A slot that the Execute-Memory check neither resolved nor stalled takes the loaded
datum or the ALU result of `MEMWB`, and if it matches neither register it keeps its value (R145, with the
parts of R142, R143, R144 and R149 about the value of a slot). -/
def Obligations.ForwardsFromMemWb : Prop :=
  ∀ s : State, s.deex.valid = true → isBubble s.deex.kind = false →
    ∀ sl ∈ [(needsA s.deex.layout, s.deex.srcA, s.deex.valA, (hazardUnit s).deex.valA),
            (needsB s.deex.layout, s.deex.srcB, s.deex.valB, (hazardUnit s).deex.valB)],
      (sl.1 = false ∨ sl.2.1 = zeroReg → sl.2.2.2 = sl.2.2.1) ∧
      (sl.1 = true → sl.2.1 ≠ zeroReg →
        s.exmem.valid = true ∧ isBubble s.exmem.kind = false ∧ s.exmem.wb.regWrite = true ∧
          s.exmem.dst = sl.2.1 →
        sl.2.2.2 = if s.exmem.mem.memRead then sl.2.2.1 else s.exmem.aluResult) ∧
      (¬(s.exmem.valid = true ∧ isBubble s.exmem.kind = false ∧ s.exmem.wb.regWrite = true ∧
        s.exmem.dst = sl.2.1) →
      ((sl.1 = true ∧ sl.2.1 ≠ zeroReg ∧ s.memwb.valid = true ∧ isBubble s.memwb.kind = false ∧
          s.memwb.wb.regWrite = true ∧ s.memwb.dst = sl.2.1) →
        sl.2.2.2 = if s.memwb.wb.memToReg then s.memwb.memData else s.memwb.aluResult) ∧
      (¬(sl.1 = true ∧ sl.2.1 ≠ zeroReg ∧ s.memwb.valid = true ∧ isBubble s.memwb.kind = false ∧
          s.memwb.wb.regWrite = true ∧ s.memwb.dst = sl.2.1) →
        sl.2.2.2 = sl.2.2.1))

/-- Condition flags are forwarded from `EXMEM` into the copy in `DEEX`, whatever its layout, and from
nowhere else (R148). -/
def Obligations.ForwardsFlags : Prop :=
  ∀ s : State, s.deex.valid = true → isBubble s.deex.kind = false →
    ((s.exmem.valid = true ∧ isBubble s.exmem.kind = false ∧ s.exmem.wb.flagsUpdate = true) →
      (hazardUnit s).deex.z = s.exmem.newZ ∧ (hazardUnit s).deex.n = s.exmem.newN ∧
        (hazardUnit s).deex.flagsFwd = true) ∧
    (¬(s.exmem.valid = true ∧ isBubble s.exmem.kind = false ∧ s.exmem.wb.flagsUpdate = true) →
      (hazardUnit s).deex.z = s.deex.z ∧ (hazardUnit s).deex.n = s.deex.n ∧
        (hazardUnit s).deex.flagsFwd = s.deex.flagsFwd)

/-- The hazard unit writes the two operand values, the flag copy and `data_stalled`, and nothing else; with
no instruction in `DEEX` it only clears `data_stalled` (R140, R141); it stalls exactly for a needed slot
other than the zero register that a load in `EXMEM` writes (R142, R144). -/
def Obligations.HazardUnitFrame : Prop :=
  ∀ s : State,
    ((s.deex.valid = false ∨ isBubble s.deex.kind = true) →
      hazardUnit s = { s with dataStalled := false }) ∧
    (∃ a b z n f st, hazardUnit s =
      { s with dataStalled := st, deex := { s.deex with valA := a, valB := b, z := z, n := n, flagsFwd := f } }) ∧
    ((hazardUnit s).dataStalled = true ↔
      s.deex.valid = true ∧ isBubble s.deex.kind = false ∧ s.exmem.valid = true ∧
      isBubble s.exmem.kind = false ∧ s.exmem.wb.regWrite = true ∧ s.exmem.mem.memRead = true ∧
      s.exmem.dst ≠ zeroReg ∧
      ((needsA s.deex.layout = true ∧ s.deex.srcA = s.exmem.dst) ∨
        (needsB s.deex.layout = true ∧ s.deex.srcB = s.exmem.dst)))

/-! ## ALU and conditions (44_execute.md section 2, 30_encoding.md R83) -/

/-- The nine ALU operations (R184 to R192). -/
def Obligations.AluResults : Prop :=
  ∀ a b : Word,
    (alu .add a b).toNat = (a.toNat + b.toNat) % 2 ^ 64 ∧
    ((alu .sub a b).toNat : Int) = ((a.toNat : Int) - b.toNat) % 2 ^ 64 ∧
    (∀ i, (alu .and a b).getLsbD i = (a.getLsbD i && b.getLsbD i)) ∧
    (∀ i, (alu .or a b).getLsbD i = (a.getLsbD i || b.getLsbD i)) ∧
    (∀ i, (alu .xor a b).getLsbD i = (a.getLsbD i ^^ b.getLsbD i)) ∧
    (alu .shl a b).toNat = a.toNat * 2 ^ (b.toNat % 64) % 2 ^ 64 ∧
    (alu .shr a b).toNat = a.toNat / 2 ^ (b.toNat % 64) ∧
    (alu .mul a b).toNat = a.toNat * b.toNat % 2 ^ 64 ∧
    alu .cmp a b = alu .sub a b

/-- After a compare whose difference fits in 64 bits signed, the six conditions are the six comparisons
of the signed values (R83, R263, 70_reset_and_hazards.md R325 c); `EQ` and `NE` hold of any difference. -/
def Obligations.SignedConditions : Prop :=
  ∀ a b : Word,
    (ccHolds .eq (zeroFlag (alu .cmp a b)) (negFlag (alu .cmp a b)) = decide (a = b)) ∧
    (ccHolds .ne (zeroFlag (alu .cmp a b)) (negFlag (alu .cmp a b)) = decide (a ≠ b)) ∧
    (-2 ^ 63 ≤ a.toInt - b.toInt ∧ a.toInt - b.toInt < 2 ^ 63 →
      ccHolds .lt (zeroFlag (alu .cmp a b)) (negFlag (alu .cmp a b)) = decide (a.toInt < b.toInt) ∧
      ccHolds .ge (zeroFlag (alu .cmp a b)) (negFlag (alu .cmp a b)) = decide (b.toInt ≤ a.toInt) ∧
      ccHolds .gt (zeroFlag (alu .cmp a b)) (negFlag (alu .cmp a b)) = decide (b.toInt < a.toInt) ∧
      ccHolds .le (zeroFlag (alu .cmp a b)) (negFlag (alu .cmp a b)) = decide (a.toInt ≤ b.toInt))

/-! ## The predictor (41_predictor.md) -/

/-- `Update` (R131, R132). -/
def Obligations.PredictorUpdate : Prop :=
  ∀ (b : Predictor) (isCond taken : Bool) (pc target : Word),
    PredictorTrained b (predUpdate isCond taken pc target b) isCond taken pc target

/-- `Predict` after `Update`: an unconditional branch is predicted taken to its target; a conditional one
is predicted taken to it exactly when its counter under the new history is above 1; and no other address
gets a taken prediction from an entry that is not its own (R130, R131, R133). -/
def Obligations.PredictAfterUpdate : Prop :=
  ∀ (b : Predictor) (isCond taken : Bool) (pc target : Word),
    (isCond = false → predict (predUpdate isCond taken pc target b) pc = (true, target)) ∧
    (isCond = true → predict (predUpdate isCond taken pc target b) pc =
      if 1 < (phtGet (predUpdate isCond taken pc target b)
          ((predUpdate isCond taken pc target b).ghr ^^^ pc.extractLsb' 2 8).toNat).toNat
      then (true, target) else (false, pc + 4)) ∧
    (∀ pc', pc' ≠ pc → pc'.extractLsb' 2 10 = pc.extractLsb' 2 10 →
      predict (predUpdate isCond taken pc target b) pc' = (false, pc' + 4))

/-! ## The timed caches (40_cache.md), for any legal geometry -/

/-- A miss counts down: the first `Read` answers 10, the calls one to nine ticks later 9 to 1, and the call
after ten ticks completes with the bytes backing memory holds at the address (R113, R115, R118, R119,
R124 a). -/
def Obligations.MissCountsDown : Prop :=
  ∀ (p : Params) (c : CacheId) (a : Word) (n : Nat) (s : State), p.legal →
    crossesBlock p a n = false → (getCache c s).queries = [] → cacheLookup p c a s = none →
    (cacheRead p c a n s).1 = .waiting 10 ∧
    (∀ k, k < 10 → (cacheRead p c a n ((cacheTick p c)^[k] (cacheRead p c a n s).2)).1 =
      .waiting (10 - k)) ∧
    ∃ j, (cacheRead p c a n ((cacheTick p c)^[10] (cacheRead p c a n s).2)).1 =
      .done (BitVec.ofNat 64 (bytesValue (memBytes s.mem a n))) j

/-- Writing and then reading the same address and size on a hit gives the value written, and backing
memory then holds the line's bytes (R116, R120, R124 b and c). -/
def Obligations.WriteThenRead : Prop :=
  ∀ (p : Params) (c : CacheId) (a : Word) (n j : Nat) (l : Line) (v : Word) (s : State), p.legal → n ≤ 8 →
    crossesBlock p a n = false → (getCache c s).queries = [] → cacheLookup p c a s = some (j, l) →
    l.bytes.length = p.block →
    ∃ d l', (cacheWrite p c a n v s).1 = .done d j ∧
      (cacheRead p c a n (cacheWrite p c a n v s).2).1 = .done (BitVec.ofNat 64 (v.toNat % 2 ^ (8 * n))) j ∧
      cacheLookup p c a (cacheWrite p c a n v s).2 = some (j, l') ∧
      l'.bytes = memBytes (cacheWrite p c a n v s).2.mem (blockBase p a) p.block

/-- A fill takes the way with the smallest stamp of the block's set, among equals the lowest, so an
invalid way before any valid one that has been touched. It writes exactly the line of that way, with the
block's number, the bytes backing memory holds of the block, and the next timestamp; every other line of
the cache and everything else of the state stays (R119, R117). -/
def Obligations.FillEvictsOldest : Prop :=
  ∀ (p : Params) (c : CacheId) (a : Word) (s : State), p.legal →
    (victimWay p c a s < waysOf p c ∧
      ∀ w, w < waysOf p c →
        wayStamp p c a s (victimWay p c a s) ≤ wayStamp p c a s w ∧
        (wayStamp p c a s w = wayStamp p c a s (victimWay p c a s) → victimWay p c a s ≤ w)) ∧
    ∃ lines, cacheFill p c a s =
        setCache c { lines := lines, queries := (getCache c s).queries } { s with ts := s.ts + 1 } ∧
      ∀ i, tableGet lines i =
        if i = lineIndex p c a (victimWay p c a s) then
          some { tag := blockNumber p a, stamp := s.ts + 1, bytes := memBytes s.mem a p.block }
        else tableGet (getCache c s).lines i

/-! ## The miss path of Fetch, in the step (43_fetch_decode.md R160, R170) -/

/-- A fetch that misses keeps `PC`, calls no predictor and marks `IFDE` as waiting for the word at `PC`: the
first call opens a query, which the tick of this cycle leaves at 9; a later one waits while the query
counts down, and the tick that ends it fills the line from memory, so that the next call hits. While
`IFDE` waits Decode gives a `MEM_BUBBLE` unless it is gated (43_fetch_decode.md R158, R160, R170,
40_cache.md R113, R115, R118, R119). -/
def Obligations.FetchMissStalls : Prop :=
  (∀ (s : State) (k : Nat), FetchOpen s → crossesBlock defaultParams s.pc 4 = false →
    (s.ic.queries = [] ∧ cacheLookup defaultParams .ic s.pc s = none ∧ k = missLatency) ∨
      (s.ic.queries = [{ base := blockBase defaultParams s.pc, rem := k }] ∧ 0 < k) →
    ∃ t, step s = .next t ∧
      t.ifde.valid = true ∧ t.ifde.memStall = true ∧ t.ifde.squash = false ∧ t.ifde.flush = false ∧
      t.ifde.pc = s.pc ∧ t.pc = s.pc ∧ t.feHalted = false ∧ t.pred = (beforeDecode s).pred ∧
      (1 < k → t.ic.lines = s.ic.lines ∧
        t.ic.queries = [{ base := blockBase defaultParams s.pc, rem := k - 1 }]) ∧
      (k = 1 → t.ic.queries = [] ∧ (cacheLookup defaultParams .ic s.pc s = none →
        ∃ j l, cacheLookup defaultParams .ic s.pc t = some (j, l) ∧
          l.bytes = memBytes t.mem (blockBase defaultParams s.pc) defaultParams.block))) ∧
  (∀ s t : State, s.status = .running → s.ifde.valid = true → s.ifde.memStall = true →
    s.ifde.squash = false → (beforeDecode s).ifde.flush = false → step s = .next t →
    t.deHalted = s.deHalted ∧ (∀ w pc, t.status ≠ .fatal (.decodeFault w pc)) ∧
      (¬DecodeGated s → t.deex = bubbleDeEx .memBubble s.ifde.pc) ∧
      (DecodeGated s → t.deex = (hazardUnit s).deex))

end Statements
end

