-- ==== Sys2Proof/Laws/Memory.lean ====
section
/-!
SUPPORT. The laws of sparse tables and of backing memory: a read after a write, what a write leaves
alone, and that every write keeps the canonical form.
-/

namespace Sys2Proof.Machine

/-! ## Sparse tables -/

theorem tableGet_put {α : Type} (m : List (Nat × α)) (i j : Nat) (v : α) :
    tableGet (tablePut m i v) j = if j = i then some v else tableGet m j := by
  induction m with
  | nil => simp [tablePut, tableGet]
  | cons c t ih =>
    obtain ⟨k, w⟩ := c
    simp only [tablePut]
    split_ifs <;> simp_all [tableGet]

@[simp] theorem tableGet_put_same {α : Type} (m : List (Nat × α)) (i : Nat) (v : α) :
    tableGet (tablePut m i v) i = some v := by simp [tableGet_put]

theorem tableGet_put_other {α : Type} (m : List (Nat × α)) {i j : Nat} (h : j ≠ i) (v : α) :
    tableGet (tablePut m i v) j = tableGet m j := by simp [tableGet_put, h]

theorem tableGet_erase {α : Type} (m : List (Nat × α)) (i j : Nat) :
    tableGet (tableErase m i) j = if j = i then none else tableGet m j := by
  induction m with
  | nil => simp [tableErase, tableGet]
  | cons c t ih =>
    obtain ⟨k, w⟩ := c
    simp only [tableErase]
    split_ifs <;> simp_all [tableGet]

/-- Reading a table after setting one entry. -/
theorem sparseGet_set {α : Type} [DecidableEq α] (d : α) (m : List (Nat × α)) (i j : Nat) (v : α) :
    sparseGet d (sparseSet d m i v) j = if j = i then v else sparseGet d m j := by
  unfold sparseGet sparseSet
  split_ifs with h h' <;> simp_all [tableGet_put, tableGet_erase]

theorem tableGet_mem {α : Type} {m : List (Nat × α)} {i : Nat} {v : α} (h : tableGet m i = some v) :
    (i, v) ∈ m := by
  induction m with
  | nil => simp [tableGet] at h
  | cons c t ih =>
    obtain ⟨k, w⟩ := c
    simp only [tableGet] at h
    split_ifs at h <;> simp_all

theorem mem_tablePut {α : Type} {m : List (Nat × α)} {i : Nat} {v : α} {c : Nat × α}
    (h : c ∈ tablePut m i v) : c = (i, v) ∨ c ∈ m := by
  induction m with
  | nil => simpa [tablePut] using h
  | cons e t ih =>
    obtain ⟨k, w⟩ := e
    simp only [tablePut] at h
    split_ifs at h <;> simp only [List.mem_cons] at h ⊢ <;> tauto

theorem mem_tableErase {α : Type} {m : List (Nat × α)} {i : Nat} {c : Nat × α}
    (h : c ∈ tableErase m i) : c ∈ m := by
  induction m with
  | nil => simp [tableErase] at h
  | cons e t ih =>
    obtain ⟨k, w⟩ := e
    simp only [tableErase] at h
    split_ifs at h <;> simp only [List.mem_cons] at h ⊢ <;> tauto

theorem tableSorted_cons {α : Type} {k : Nat} {w : α} {t : List (Nat × α)} :
    tableSorted ((k, w) :: t) ↔ (∀ c ∈ t, k < c.1) ∧ tableSorted t := by
  simp [tableSorted]

theorem tableSorted_put {α : Type} {m : List (Nat × α)} (h : tableSorted m) (i : Nat) (v : α) :
    tableSorted (tablePut m i v) := by
  induction m with
  | nil => simp [tablePut, tableSorted]
  | cons e t ih =>
    obtain ⟨k, w⟩ := e
    obtain ⟨hk, ht⟩ := tableSorted_cons.mp h
    simp only [tablePut]
    split_ifs with h1 h2
    · refine tableSorted_cons.mpr ⟨fun c hc => ?_, h⟩
      rcases List.mem_cons.mp hc with rfl | hc
      · exact h1
      · exact h1.trans (hk c hc)
    · exact tableSorted_cons.mpr ⟨fun c hc => h2 ▸ hk c hc, ht⟩
    · refine tableSorted_cons.mpr ⟨fun c hc => ?_, ih ht⟩
      rcases mem_tablePut hc with rfl | hc
      · simp only; omega
      · exact hk c hc

theorem tableSorted_erase {α : Type} {m : List (Nat × α)} (h : tableSorted m) (i : Nat) :
    tableSorted (tableErase m i) := by
  induction m with
  | nil => exact h
  | cons e t ih =>
    obtain ⟨k, w⟩ := e
    obtain ⟨hk, ht⟩ := tableSorted_cons.mp h
    simp only [tableErase]
    split_ifs
    · exact ih ht
    · exact tableSorted_cons.mpr ⟨fun c hc => hk c (mem_tableErase hc), ih ht⟩

/-! ## Backing memory -/

/-- A byte read after a byte write (20_memory.md R60, R62). -/
theorem memRead_memWrite (m : Memory) (a a' : Word) (b : Byte) :
    memRead (memWrite m a b) a' = if a' = a then b else memRead m a' := by
  simp [memRead, memWrite, sparseGet_set, BitVec.toNat_inj]

theorem Memory.wf_memWrite {m : Memory} (h : Memory.wf m) (a : Word) (b : Byte) :
    Memory.wf (memWrite m a b) := by
  obtain ⟨hs, hm⟩ := h
  unfold memWrite sparseSet
  split_ifs with hb
  · exact ⟨tableSorted_erase hs _, fun c hc => hm c (mem_tableErase hc)⟩
  · refine ⟨tableSorted_put hs _ _, fun c hc => ?_⟩
    rcases mem_tablePut hc with rfl | hc
    · exact ⟨a.isLt, hb⟩
    · exact hm c hc

theorem Memory.wf_memWordWrite {m : Memory} (h : Memory.wf m) (a : Word) (w : Word32) :
    Memory.wf (memWordWrite m a w) := by
  unfold memWordWrite
  exact Memory.wf_memWrite (Memory.wf_memWrite (Memory.wf_memWrite (Memory.wf_memWrite h _ _) _ _) _ _) _ _

theorem Memory.wf_hostWriteWord {s : State} (h : Memory.wf s.mem) (a : Word) (w : Word32) :
    Memory.wf (hostWriteWord a w s).mem := Memory.wf_memWordWrite h a w

theorem Memory.wf_syncBlock {m : Memory} (h : Memory.wf m) (p : Params) (l : Line) :
    Memory.wf (syncBlock p l m) := by
  unfold syncBlock
  induction List.range (p.block / 4) generalizing m with
  | nil => exact h
  | cons i t ih => exact ih (Memory.wf_memWordWrite h _ _)

/-- A byte read after a word write: the four bytes from the address on are the word's, little-endian,
and every other byte is as before (20_memory.md R60, R62). -/
theorem memRead_memWordWrite (m : Memory) (a a' : Word) (w : Word32) :
    memRead (memWordWrite m a w) a' =
      if a' = a + 3 then wordByte w 3 else if a' = a + 2 then wordByte w 2
      else if a' = a + 1 then wordByte w 1 else if a' = a then wordByte w 0 else memRead m a' := by
  simp [memWordWrite, memRead_memWrite]

/-- A word read gives back the four bytes it is made of. -/
theorem wordByte_memWordRead (m : Memory) (a : Word) (k : Nat) (hk : k < 4) :
    wordByte (memWordRead m a) k = memRead m (a + BitVec.ofNat 64 k) := by
  unfold wordByte memWordRead
  apply BitVec.eq_of_getLsbD_eq
  intro i hi
  simp only [BitVec.getLsbD_extractLsb', hi, decide_true, Bool.true_and, BitVec.getLsbD_append]
  interval_cases k
  · simp [hi]
  · simp [show ¬ (8 + i < 8) by omega, show 8 + i - 8 = i by omega, hi]
  · simp [show ¬ (16 + i < 8) by omega, show ¬ (16 + i - 8 < 8) by omega,
      show 16 + i - 8 - 8 = i by omega, hi]
  · simp [show ¬ (24 + i < 8) by omega, show ¬ (24 + i - 8 < 8) by omega,
      show ¬ (24 + i - 8 - 8 < 8) by omega, show 24 + i - 8 - 8 - 8 = i by omega]

/-- A word read after a word write to the same address gives the word. -/
theorem memWordRead_memWordWrite (m : Memory) (a : Word) (w : Word32) :
    memWordRead (memWordWrite m a w) a = w := by
  have e : ∀ x y : Word, x ≠ y → a + x ≠ a + y := fun x y h h' => h (by simpa using h')
  have e0 : ∀ x : Word, x ≠ 0 → a ≠ a + x := fun x h h' => h (by simpa using h'.symm)
  have h3 : memRead (memWordWrite m a w) (a + 3) = wordByte w 3 := by
    rw [memRead_memWordWrite, if_pos rfl]
  have h2 : memRead (memWordWrite m a w) (a + 2) = wordByte w 2 := by
    rw [memRead_memWordWrite, if_neg (e 2 3 (by decide)), if_pos rfl]
  have h1 : memRead (memWordWrite m a w) (a + 1) = wordByte w 1 := by
    rw [memRead_memWordWrite, if_neg (e 1 3 (by decide)), if_neg (e 1 2 (by decide)), if_pos rfl]
  have h0 : memRead (memWordWrite m a w) a = wordByte w 0 := by
    rw [memRead_memWordWrite, if_neg (e0 3 (by decide)), if_neg (e0 2 (by decide)),
      if_neg (e0 1 (by decide)), if_pos rfl]
  unfold memWordRead
  rw [h3, h2, h1, h0]
  apply BitVec.eq_of_getLsbD_eq
  intro i hi
  simp only [BitVec.getLsbD_append, wordByte, BitVec.getLsbD_extractLsb']
  by_cases c1 : i < 8
  · simp [c1]
  by_cases c2 : i < 16
  · simp [c1, show i - 8 < 8 by omega, show 8 + (i - 8) = i by omega]
  by_cases c3 : i < 24
  · simp [c1, show ¬ (i - 8 < 8) by omega, show i - 8 - 8 < 8 by omega,
      show 16 + (i - 8 - 8) = i by omega]
  · simp [c1, show ¬ (i - 8 < 8) by omega, show ¬ (i - 8 - 8 < 8) by omega,
      show i - 8 - 8 - 8 < 8 by omega, show 24 + (i - 8 - 8 - 8) = i by omega]

/-! ## Blocks -/

/-- A line filled from a block holds, in `bytes[k]`, the byte at `b + k` (40_cache.md R119, 20_memory.md
R62). -/
theorem fillBytes_getElem? (p : Params) (h4 : p.block % 4 = 0) (b : Word) (m : Memory) (k : Nat)
    (hk : k < p.block) :
    (fillBytes p b m)[k]? = some (memRead m (b + BitVec.ofNat 64 k)) := by
  have key : ∀ n j : Nat, j < 4 * n →
      ((List.range n).flatMap fun i => (List.range 4).map fun k =>
        wordByte (memWordRead m (blockWordAddr b i)) k)[j]? =
        some (memRead m (b + BitVec.ofNat 64 j)) := by
    intro n
    induction n with
    | zero => intro j hj; omega
    | succ n ih =>
      intro j hj
      rw [List.range_succ (n := n), List.flatMap_append]
      have len : ∀ n : Nat, ((List.range n).flatMap fun i => (List.range 4).map fun k =>
          wordByte (memWordRead m (blockWordAddr b i)) k).length = 4 * n := by
        intro n; simp [List.length_flatMap, Nat.mul_comm]
      by_cases hlt : j < 4 * n
      · rw [List.getElem?_append_left (by rw [len]; exact hlt)]
        exact ih j hlt
      · rw [List.getElem?_append_right (by rw [len]; omega), len]
        have hj4 : j - 4 * n < 4 := by omega
        simp only [List.flatMap_cons, List.flatMap_nil, List.append_nil]
        rw [List.getElem?_map, List.getElem?_range hj4]
        simp only [Option.map_some, Option.some.injEq]
        rw [wordByte_memWordRead _ _ _ hj4]
        unfold blockWordAddr
        rw [BitVec.add_assoc, ← BitVec.ofNat_add]
        congr 3
        omega
  exact key (p.block / 4) k (by omega)

theorem fillBytes_length (p : Params) (h4 : p.block % 4 = 0) (b : Word) (m : Memory) :
    (fillBytes p b m).length = p.block := by
  simp [fillBytes, List.length_flatMap]
  omega

/-- A byte read after the write-through of a line (40_cache.md R120): inside the line's block the byte
is the line's, and every byte outside the block is as before. -/
theorem memRead_syncBlock (p : Params) (h4 : p.block % 4 = 0) (l : Line)
    (ht : l.tag * p.block + p.block ≤ 2 ^ 64) (m : Memory) (a : Word) :
    memRead (syncBlock p l m) a =
      if l.tag * p.block ≤ a.toNat ∧ a.toNat < l.tag * p.block + p.block then
        l.bytes[a.toNat - l.tag * p.block]?.getD 0
      else memRead m a := by
  have key : ∀ n, 4 * n ≤ p.block → ∀ a : Word,
      memRead ((List.range n).foldl
        (fun m i => memWordWrite m (blockWordAddr (tagBase p l.tag) i) (lineWord l i)) m) a =
      if l.tag * p.block ≤ a.toNat ∧ a.toNat < l.tag * p.block + 4 * n then
        l.bytes[a.toNat - l.tag * p.block]?.getD 0
      else memRead m a := by
    intro n
    induction n with
    | zero => intro _ a; rw [if_neg (by omega)]; rfl
    | succ n ih =>
      intro hn a
      rw [List.range_succ, List.foldl_append, List.foldl_cons, List.foldl_nil, memRead_memWordWrite]
      have addr : ∀ k, k < 4 →
          (blockWordAddr (tagBase p l.tag) n + BitVec.ofNat 64 k).toNat =
            l.tag * p.block + 4 * n + k := by
        intro k hk
        simp only [blockWordAddr, tagBase, BitVec.toNat_add, BitVec.toNat_ofNat]
        omega
      have a3 := addr 3 (by omega)
      have a2 := addr 2 (by omega)
      have a1 := addr 1 (by omega)
      have a0 := addr 0 (by omega)
      simp only [BitVec.add_zero] at a0 a1 a2 a3
      have eqv : ∀ x : Word, a = x ↔ a.toNat = x.toNat := fun x => BitVec.toNat_inj.symm
      have byte : ∀ k, k < 4 → a.toNat = l.tag * p.block + 4 * n + k →
          wordByte (lineWord l n) k = l.bytes[a.toNat - l.tag * p.block]?.getD 0 := by
        intro k hk hak
        rw [show a.toNat - l.tag * p.block = 4 * n + k by omega]
        unfold wordByte lineWord
        apply BitVec.eq_of_getLsbD_eq
        intro i hi
        simp only [BitVec.getLsbD_extractLsb', hi, decide_true, Bool.true_and, BitVec.getLsbD_append]
        interval_cases k
        · simp [hi]
        · simp [show ¬ (8 + i < 8) by omega, show 8 + i - 8 = i by omega, hi]
        · simp [show ¬ (16 + i < 8) by omega, show ¬ (16 + i - 8 < 8) by omega,
            show 16 + i - 8 - 8 = i by omega, hi]
        · simp [show ¬ (24 + i < 8) by omega, show ¬ (24 + i - 8 < 8) by omega,
            show ¬ (24 + i - 8 - 8 < 8) by omega, show 24 + i - 8 - 8 - 8 = i by omega]
      rw [ih (by omega) a]
      simp only [eqv, BitVec.ofNat_eq_ofNat, a0, a1, a2, a3]
      split_ifs <;>
        first
        | omega
        | rfl
        | exact byte 0 (by omega) (by omega)
        | exact byte 1 (by omega) (by omega)
        | exact byte 2 (by omega) (by omega)
        | exact byte 3 (by omega) (by omega)
  have h := key (p.block / 4) (by omega) a
  rw [show 4 * (p.block / 4) = p.block by omega] at h
  exact h

end Sys2Proof.Machine
end

