-- ==== Sys2Proof/Laws/State.lean ====
section
/-!
SUPPORT. What each named update of the state leaves alone, and what it writes: one lemma per field per
update, so that no later proof unfolds a record update.
-/

namespace Sys2Proof.Machine

/-! ## Elementary updates -/

@[simp] theorem raiseFatal_regs (i : FatalInfo) (s : State) : (raiseFatal i s).regs = s.regs := rfl
@[simp] theorem raiseFatal_pc (i : FatalInfo) (s : State) : (raiseFatal i s).pc = s.pc := rfl
@[simp] theorem raiseFatal_z (i : FatalInfo) (s : State) : (raiseFatal i s).z = s.z := rfl
@[simp] theorem raiseFatal_n (i : FatalInfo) (s : State) : (raiseFatal i s).n = s.n := rfl
@[simp] theorem raiseFatal_controlStalled (i : FatalInfo) (s : State) : (raiseFatal i s).controlStalled = s.controlStalled := rfl
@[simp] theorem raiseFatal_dataStalled (i : FatalInfo) (s : State) : (raiseFatal i s).dataStalled = s.dataStalled := rfl
@[simp] theorem raiseFatal_dcacheStalled (i : FatalInfo) (s : State) : (raiseFatal i s).dcacheStalled = s.dcacheStalled := rfl
@[simp] theorem raiseFatal_feHalted (i : FatalInfo) (s : State) : (raiseFatal i s).feHalted = s.feHalted := rfl
@[simp] theorem raiseFatal_deHalted (i : FatalInfo) (s : State) : (raiseFatal i s).deHalted = s.deHalted := rfl
@[simp] theorem raiseFatal_exHalted (i : FatalInfo) (s : State) : (raiseFatal i s).exHalted = s.exHalted := rfl
@[simp] theorem raiseFatal_memHalted (i : FatalInfo) (s : State) : (raiseFatal i s).memHalted = s.memHalted := rfl
@[simp] theorem raiseFatal_cycleCount (i : FatalInfo) (s : State) : (raiseFatal i s).cycleCount = s.cycleCount := rfl
@[simp] theorem raiseFatal_retiredCount (i : FatalInfo) (s : State) : (raiseFatal i s).retiredCount = s.retiredCount := rfl
@[simp] theorem raiseFatal_ifde (i : FatalInfo) (s : State) : (raiseFatal i s).ifde = s.ifde := rfl
@[simp] theorem raiseFatal_deex (i : FatalInfo) (s : State) : (raiseFatal i s).deex = s.deex := rfl
@[simp] theorem raiseFatal_exmem (i : FatalInfo) (s : State) : (raiseFatal i s).exmem = s.exmem := rfl
@[simp] theorem raiseFatal_memwb (i : FatalInfo) (s : State) : (raiseFatal i s).memwb = s.memwb := rfl
@[simp] theorem raiseFatal_exmemCkpt (i : FatalInfo) (s : State) : (raiseFatal i s).exmemCkpt = s.exmemCkpt := rfl
@[simp] theorem raiseFatal_pred (i : FatalInfo) (s : State) : (raiseFatal i s).pred = s.pred := rfl
@[simp] theorem raiseFatal_ic (i : FatalInfo) (s : State) : (raiseFatal i s).ic = s.ic := rfl
@[simp] theorem raiseFatal_dc (i : FatalInfo) (s : State) : (raiseFatal i s).dc = s.dc := rfl
@[simp] theorem raiseFatal_ts (i : FatalInfo) (s : State) : (raiseFatal i s).ts = s.ts := rfl
@[simp] theorem raiseFatal_mem (i : FatalInfo) (s : State) : (raiseFatal i s).mem = s.mem := rfl

@[simp] theorem raiseFatal_status (i : FatalInfo) (s : State) : (raiseFatal i s).status = .fatal i := rfl

@[simp] theorem hostWriteWord_regs (a : Word) (w : Word32) (s : State) : (hostWriteWord a w s).regs = s.regs := rfl
@[simp] theorem hostWriteWord_pc (a : Word) (w : Word32) (s : State) : (hostWriteWord a w s).pc = s.pc := rfl
@[simp] theorem hostWriteWord_z (a : Word) (w : Word32) (s : State) : (hostWriteWord a w s).z = s.z := rfl
@[simp] theorem hostWriteWord_n (a : Word) (w : Word32) (s : State) : (hostWriteWord a w s).n = s.n := rfl
@[simp] theorem hostWriteWord_controlStalled (a : Word) (w : Word32) (s : State) : (hostWriteWord a w s).controlStalled = s.controlStalled := rfl
@[simp] theorem hostWriteWord_dataStalled (a : Word) (w : Word32) (s : State) : (hostWriteWord a w s).dataStalled = s.dataStalled := rfl
@[simp] theorem hostWriteWord_dcacheStalled (a : Word) (w : Word32) (s : State) : (hostWriteWord a w s).dcacheStalled = s.dcacheStalled := rfl
@[simp] theorem hostWriteWord_feHalted (a : Word) (w : Word32) (s : State) : (hostWriteWord a w s).feHalted = s.feHalted := rfl
@[simp] theorem hostWriteWord_deHalted (a : Word) (w : Word32) (s : State) : (hostWriteWord a w s).deHalted = s.deHalted := rfl
@[simp] theorem hostWriteWord_exHalted (a : Word) (w : Word32) (s : State) : (hostWriteWord a w s).exHalted = s.exHalted := rfl
@[simp] theorem hostWriteWord_memHalted (a : Word) (w : Word32) (s : State) : (hostWriteWord a w s).memHalted = s.memHalted := rfl
@[simp] theorem hostWriteWord_status (a : Word) (w : Word32) (s : State) : (hostWriteWord a w s).status = s.status := rfl
@[simp] theorem hostWriteWord_cycleCount (a : Word) (w : Word32) (s : State) : (hostWriteWord a w s).cycleCount = s.cycleCount := rfl
@[simp] theorem hostWriteWord_retiredCount (a : Word) (w : Word32) (s : State) : (hostWriteWord a w s).retiredCount = s.retiredCount := rfl
@[simp] theorem hostWriteWord_ifde (a : Word) (w : Word32) (s : State) : (hostWriteWord a w s).ifde = s.ifde := rfl
@[simp] theorem hostWriteWord_deex (a : Word) (w : Word32) (s : State) : (hostWriteWord a w s).deex = s.deex := rfl
@[simp] theorem hostWriteWord_exmem (a : Word) (w : Word32) (s : State) : (hostWriteWord a w s).exmem = s.exmem := rfl
@[simp] theorem hostWriteWord_memwb (a : Word) (w : Word32) (s : State) : (hostWriteWord a w s).memwb = s.memwb := rfl
@[simp] theorem hostWriteWord_exmemCkpt (a : Word) (w : Word32) (s : State) : (hostWriteWord a w s).exmemCkpt = s.exmemCkpt := rfl
@[simp] theorem hostWriteWord_pred (a : Word) (w : Word32) (s : State) : (hostWriteWord a w s).pred = s.pred := rfl
@[simp] theorem hostWriteWord_ic (a : Word) (w : Word32) (s : State) : (hostWriteWord a w s).ic = s.ic := rfl
@[simp] theorem hostWriteWord_dc (a : Word) (w : Word32) (s : State) : (hostWriteWord a w s).dc = s.dc := rfl
@[simp] theorem hostWriteWord_ts (a : Word) (w : Word32) (s : State) : (hostWriteWord a w s).ts = s.ts := rfl

@[simp] theorem hostWriteWord_mem (a : Word) (w : Word32) (s : State) :
    (hostWriteWord a w s).mem = memWordWrite s.mem a w := rfl

@[simp] theorem writeReg_pc (r : Reg) (v : Word) (s : State) : (writeReg r v s).pc = s.pc := by unfold writeReg; split <;> rfl
@[simp] theorem writeReg_z (r : Reg) (v : Word) (s : State) : (writeReg r v s).z = s.z := by unfold writeReg; split <;> rfl
@[simp] theorem writeReg_n (r : Reg) (v : Word) (s : State) : (writeReg r v s).n = s.n := by unfold writeReg; split <;> rfl
@[simp] theorem writeReg_controlStalled (r : Reg) (v : Word) (s : State) : (writeReg r v s).controlStalled = s.controlStalled := by unfold writeReg; split <;> rfl
@[simp] theorem writeReg_dataStalled (r : Reg) (v : Word) (s : State) : (writeReg r v s).dataStalled = s.dataStalled := by unfold writeReg; split <;> rfl
@[simp] theorem writeReg_dcacheStalled (r : Reg) (v : Word) (s : State) : (writeReg r v s).dcacheStalled = s.dcacheStalled := by unfold writeReg; split <;> rfl
@[simp] theorem writeReg_feHalted (r : Reg) (v : Word) (s : State) : (writeReg r v s).feHalted = s.feHalted := by unfold writeReg; split <;> rfl
@[simp] theorem writeReg_deHalted (r : Reg) (v : Word) (s : State) : (writeReg r v s).deHalted = s.deHalted := by unfold writeReg; split <;> rfl
@[simp] theorem writeReg_exHalted (r : Reg) (v : Word) (s : State) : (writeReg r v s).exHalted = s.exHalted := by unfold writeReg; split <;> rfl
@[simp] theorem writeReg_memHalted (r : Reg) (v : Word) (s : State) : (writeReg r v s).memHalted = s.memHalted := by unfold writeReg; split <;> rfl
@[simp] theorem writeReg_status (r : Reg) (v : Word) (s : State) : (writeReg r v s).status = s.status := by unfold writeReg; split <;> rfl
@[simp] theorem writeReg_cycleCount (r : Reg) (v : Word) (s : State) : (writeReg r v s).cycleCount = s.cycleCount := by unfold writeReg; split <;> rfl
@[simp] theorem writeReg_retiredCount (r : Reg) (v : Word) (s : State) : (writeReg r v s).retiredCount = s.retiredCount := by unfold writeReg; split <;> rfl
@[simp] theorem writeReg_ifde (r : Reg) (v : Word) (s : State) : (writeReg r v s).ifde = s.ifde := by unfold writeReg; split <;> rfl
@[simp] theorem writeReg_deex (r : Reg) (v : Word) (s : State) : (writeReg r v s).deex = s.deex := by unfold writeReg; split <;> rfl
@[simp] theorem writeReg_exmem (r : Reg) (v : Word) (s : State) : (writeReg r v s).exmem = s.exmem := by unfold writeReg; split <;> rfl
@[simp] theorem writeReg_memwb (r : Reg) (v : Word) (s : State) : (writeReg r v s).memwb = s.memwb := by unfold writeReg; split <;> rfl
@[simp] theorem writeReg_exmemCkpt (r : Reg) (v : Word) (s : State) : (writeReg r v s).exmemCkpt = s.exmemCkpt := by unfold writeReg; split <;> rfl
@[simp] theorem writeReg_pred (r : Reg) (v : Word) (s : State) : (writeReg r v s).pred = s.pred := by unfold writeReg; split <;> rfl
@[simp] theorem writeReg_ic (r : Reg) (v : Word) (s : State) : (writeReg r v s).ic = s.ic := by unfold writeReg; split <;> rfl
@[simp] theorem writeReg_dc (r : Reg) (v : Word) (s : State) : (writeReg r v s).dc = s.dc := by unfold writeReg; split <;> rfl
@[simp] theorem writeReg_ts (r : Reg) (v : Word) (s : State) : (writeReg r v s).ts = s.ts := by unfold writeReg; split <;> rfl
@[simp] theorem writeReg_mem (r : Reg) (v : Word) (s : State) : (writeReg r v s).mem = s.mem := by unfold writeReg; split <;> rfl

/-! ## Caches -/

@[simp] theorem setCache_regs (c : CacheId) (v : Cache) (s : State) : (setCache c v s).regs = s.regs := by cases c <;> rfl
@[simp] theorem setCache_pc (c : CacheId) (v : Cache) (s : State) : (setCache c v s).pc = s.pc := by cases c <;> rfl
@[simp] theorem setCache_z (c : CacheId) (v : Cache) (s : State) : (setCache c v s).z = s.z := by cases c <;> rfl
@[simp] theorem setCache_n (c : CacheId) (v : Cache) (s : State) : (setCache c v s).n = s.n := by cases c <;> rfl
@[simp] theorem setCache_controlStalled (c : CacheId) (v : Cache) (s : State) : (setCache c v s).controlStalled = s.controlStalled := by cases c <;> rfl
@[simp] theorem setCache_dataStalled (c : CacheId) (v : Cache) (s : State) : (setCache c v s).dataStalled = s.dataStalled := by cases c <;> rfl
@[simp] theorem setCache_dcacheStalled (c : CacheId) (v : Cache) (s : State) : (setCache c v s).dcacheStalled = s.dcacheStalled := by cases c <;> rfl
@[simp] theorem setCache_feHalted (c : CacheId) (v : Cache) (s : State) : (setCache c v s).feHalted = s.feHalted := by cases c <;> rfl
@[simp] theorem setCache_deHalted (c : CacheId) (v : Cache) (s : State) : (setCache c v s).deHalted = s.deHalted := by cases c <;> rfl
@[simp] theorem setCache_exHalted (c : CacheId) (v : Cache) (s : State) : (setCache c v s).exHalted = s.exHalted := by cases c <;> rfl
@[simp] theorem setCache_memHalted (c : CacheId) (v : Cache) (s : State) : (setCache c v s).memHalted = s.memHalted := by cases c <;> rfl
@[simp] theorem setCache_status (c : CacheId) (v : Cache) (s : State) : (setCache c v s).status = s.status := by cases c <;> rfl
@[simp] theorem setCache_cycleCount (c : CacheId) (v : Cache) (s : State) : (setCache c v s).cycleCount = s.cycleCount := by cases c <;> rfl
@[simp] theorem setCache_retiredCount (c : CacheId) (v : Cache) (s : State) : (setCache c v s).retiredCount = s.retiredCount := by cases c <;> rfl
@[simp] theorem setCache_ifde (c : CacheId) (v : Cache) (s : State) : (setCache c v s).ifde = s.ifde := by cases c <;> rfl
@[simp] theorem setCache_deex (c : CacheId) (v : Cache) (s : State) : (setCache c v s).deex = s.deex := by cases c <;> rfl
@[simp] theorem setCache_exmem (c : CacheId) (v : Cache) (s : State) : (setCache c v s).exmem = s.exmem := by cases c <;> rfl
@[simp] theorem setCache_memwb (c : CacheId) (v : Cache) (s : State) : (setCache c v s).memwb = s.memwb := by cases c <;> rfl
@[simp] theorem setCache_exmemCkpt (c : CacheId) (v : Cache) (s : State) : (setCache c v s).exmemCkpt = s.exmemCkpt := by cases c <;> rfl
@[simp] theorem setCache_pred (c : CacheId) (v : Cache) (s : State) : (setCache c v s).pred = s.pred := by cases c <;> rfl
@[simp] theorem setCache_ts (c : CacheId) (v : Cache) (s : State) : (setCache c v s).ts = s.ts := by cases c <;> rfl
@[simp] theorem setCache_mem (c : CacheId) (v : Cache) (s : State) : (setCache c v s).mem = s.mem := by cases c <;> rfl

@[simp] theorem setCache_ic_ic (v : Cache) (s : State) : (setCache .ic v s).ic = v := rfl
@[simp] theorem setCache_ic_dc (v : Cache) (s : State) : (setCache .ic v s).dc = s.dc := rfl
@[simp] theorem setCache_dc_dc (v : Cache) (s : State) : (setCache .dc v s).dc = v := rfl
@[simp] theorem setCache_dc_ic (v : Cache) (s : State) : (setCache .dc v s).ic = s.ic := rfl
@[simp] theorem getCache_ic (s : State) : getCache .ic s = s.ic := rfl
@[simp] theorem getCache_dc (s : State) : getCache .dc s = s.dc := rfl
@[simp] theorem getCache_setCache (c : CacheId) (v : Cache) (s : State) :
    getCache c (setCache c v s) = v := by cases c <;> rfl

@[simp] theorem setQueries_regs (c : CacheId) (q : List Query) (s : State) : (setQueries c q s).regs = s.regs := by cases c <;> rfl
@[simp] theorem setQueries_pc (c : CacheId) (q : List Query) (s : State) : (setQueries c q s).pc = s.pc := by cases c <;> rfl
@[simp] theorem setQueries_z (c : CacheId) (q : List Query) (s : State) : (setQueries c q s).z = s.z := by cases c <;> rfl
@[simp] theorem setQueries_n (c : CacheId) (q : List Query) (s : State) : (setQueries c q s).n = s.n := by cases c <;> rfl
@[simp] theorem setQueries_controlStalled (c : CacheId) (q : List Query) (s : State) : (setQueries c q s).controlStalled = s.controlStalled := by cases c <;> rfl
@[simp] theorem setQueries_dataStalled (c : CacheId) (q : List Query) (s : State) : (setQueries c q s).dataStalled = s.dataStalled := by cases c <;> rfl
@[simp] theorem setQueries_dcacheStalled (c : CacheId) (q : List Query) (s : State) : (setQueries c q s).dcacheStalled = s.dcacheStalled := by cases c <;> rfl
@[simp] theorem setQueries_feHalted (c : CacheId) (q : List Query) (s : State) : (setQueries c q s).feHalted = s.feHalted := by cases c <;> rfl
@[simp] theorem setQueries_deHalted (c : CacheId) (q : List Query) (s : State) : (setQueries c q s).deHalted = s.deHalted := by cases c <;> rfl
@[simp] theorem setQueries_exHalted (c : CacheId) (q : List Query) (s : State) : (setQueries c q s).exHalted = s.exHalted := by cases c <;> rfl
@[simp] theorem setQueries_memHalted (c : CacheId) (q : List Query) (s : State) : (setQueries c q s).memHalted = s.memHalted := by cases c <;> rfl
@[simp] theorem setQueries_status (c : CacheId) (q : List Query) (s : State) : (setQueries c q s).status = s.status := by cases c <;> rfl
@[simp] theorem setQueries_cycleCount (c : CacheId) (q : List Query) (s : State) : (setQueries c q s).cycleCount = s.cycleCount := by cases c <;> rfl
@[simp] theorem setQueries_retiredCount (c : CacheId) (q : List Query) (s : State) : (setQueries c q s).retiredCount = s.retiredCount := by cases c <;> rfl
@[simp] theorem setQueries_ifde (c : CacheId) (q : List Query) (s : State) : (setQueries c q s).ifde = s.ifde := by cases c <;> rfl
@[simp] theorem setQueries_deex (c : CacheId) (q : List Query) (s : State) : (setQueries c q s).deex = s.deex := by cases c <;> rfl
@[simp] theorem setQueries_exmem (c : CacheId) (q : List Query) (s : State) : (setQueries c q s).exmem = s.exmem := by cases c <;> rfl
@[simp] theorem setQueries_memwb (c : CacheId) (q : List Query) (s : State) : (setQueries c q s).memwb = s.memwb := by cases c <;> rfl
@[simp] theorem setQueries_exmemCkpt (c : CacheId) (q : List Query) (s : State) : (setQueries c q s).exmemCkpt = s.exmemCkpt := by cases c <;> rfl
@[simp] theorem setQueries_pred (c : CacheId) (q : List Query) (s : State) : (setQueries c q s).pred = s.pred := by cases c <;> rfl
@[simp] theorem setQueries_ts (c : CacheId) (q : List Query) (s : State) : (setQueries c q s).ts = s.ts := by cases c <;> rfl
@[simp] theorem setQueries_mem (c : CacheId) (q : List Query) (s : State) : (setQueries c q s).mem = s.mem := by cases c <;> rfl

@[simp] theorem setQueries_ic_ic (q : List Query) (s : State) :
    (setQueries .ic q s).ic = { s.ic with queries := q } := rfl
@[simp] theorem setQueries_ic_dc (q : List Query) (s : State) : (setQueries .ic q s).dc = s.dc := rfl
@[simp] theorem setQueries_dc_dc (q : List Query) (s : State) :
    (setQueries .dc q s).dc = { s.dc with queries := q } := rfl
@[simp] theorem setQueries_dc_ic (q : List Query) (s : State) : (setQueries .dc q s).ic = s.ic := rfl

@[simp] theorem setLine_regs (c : CacheId) (i : Nat) (l : Line) (s : State) : (setLine c i l s).regs = s.regs := by cases c <;> rfl
@[simp] theorem setLine_pc (c : CacheId) (i : Nat) (l : Line) (s : State) : (setLine c i l s).pc = s.pc := by cases c <;> rfl
@[simp] theorem setLine_z (c : CacheId) (i : Nat) (l : Line) (s : State) : (setLine c i l s).z = s.z := by cases c <;> rfl
@[simp] theorem setLine_n (c : CacheId) (i : Nat) (l : Line) (s : State) : (setLine c i l s).n = s.n := by cases c <;> rfl
@[simp] theorem setLine_controlStalled (c : CacheId) (i : Nat) (l : Line) (s : State) : (setLine c i l s).controlStalled = s.controlStalled := by cases c <;> rfl
@[simp] theorem setLine_dataStalled (c : CacheId) (i : Nat) (l : Line) (s : State) : (setLine c i l s).dataStalled = s.dataStalled := by cases c <;> rfl
@[simp] theorem setLine_dcacheStalled (c : CacheId) (i : Nat) (l : Line) (s : State) : (setLine c i l s).dcacheStalled = s.dcacheStalled := by cases c <;> rfl
@[simp] theorem setLine_feHalted (c : CacheId) (i : Nat) (l : Line) (s : State) : (setLine c i l s).feHalted = s.feHalted := by cases c <;> rfl
@[simp] theorem setLine_deHalted (c : CacheId) (i : Nat) (l : Line) (s : State) : (setLine c i l s).deHalted = s.deHalted := by cases c <;> rfl
@[simp] theorem setLine_exHalted (c : CacheId) (i : Nat) (l : Line) (s : State) : (setLine c i l s).exHalted = s.exHalted := by cases c <;> rfl
@[simp] theorem setLine_memHalted (c : CacheId) (i : Nat) (l : Line) (s : State) : (setLine c i l s).memHalted = s.memHalted := by cases c <;> rfl
@[simp] theorem setLine_status (c : CacheId) (i : Nat) (l : Line) (s : State) : (setLine c i l s).status = s.status := by cases c <;> rfl
@[simp] theorem setLine_cycleCount (c : CacheId) (i : Nat) (l : Line) (s : State) : (setLine c i l s).cycleCount = s.cycleCount := by cases c <;> rfl
@[simp] theorem setLine_retiredCount (c : CacheId) (i : Nat) (l : Line) (s : State) : (setLine c i l s).retiredCount = s.retiredCount := by cases c <;> rfl
@[simp] theorem setLine_ifde (c : CacheId) (i : Nat) (l : Line) (s : State) : (setLine c i l s).ifde = s.ifde := by cases c <;> rfl
@[simp] theorem setLine_deex (c : CacheId) (i : Nat) (l : Line) (s : State) : (setLine c i l s).deex = s.deex := by cases c <;> rfl
@[simp] theorem setLine_exmem (c : CacheId) (i : Nat) (l : Line) (s : State) : (setLine c i l s).exmem = s.exmem := by cases c <;> rfl
@[simp] theorem setLine_memwb (c : CacheId) (i : Nat) (l : Line) (s : State) : (setLine c i l s).memwb = s.memwb := by cases c <;> rfl
@[simp] theorem setLine_exmemCkpt (c : CacheId) (i : Nat) (l : Line) (s : State) : (setLine c i l s).exmemCkpt = s.exmemCkpt := by cases c <;> rfl
@[simp] theorem setLine_pred (c : CacheId) (i : Nat) (l : Line) (s : State) : (setLine c i l s).pred = s.pred := by cases c <;> rfl
@[simp] theorem setLine_ts (c : CacheId) (i : Nat) (l : Line) (s : State) : (setLine c i l s).ts = s.ts := by cases c <;> rfl
@[simp] theorem setLine_mem (c : CacheId) (i : Nat) (l : Line) (s : State) : (setLine c i l s).mem = s.mem := by cases c <;> rfl

@[simp] theorem setLine_ic_ic (i : Nat) (l : Line) (s : State) :
    (setLine .ic i l s).ic = { s.ic with lines := tablePut s.ic.lines i l } := rfl
@[simp] theorem setLine_ic_dc (i : Nat) (l : Line) (s : State) : (setLine .ic i l s).dc = s.dc := rfl
@[simp] theorem setLine_dc_dc (i : Nat) (l : Line) (s : State) :
    (setLine .dc i l s).dc = { s.dc with lines := tablePut s.dc.lines i l } := rfl
@[simp] theorem setLine_dc_ic (i : Nat) (l : Line) (s : State) : (setLine .dc i l s).ic = s.ic := rfl

@[simp] theorem touchLine_regs (c : CacheId) (i : Nat) (l : Line) (s : State) : (touchLine c i l s).regs = s.regs := by cases c <;> rfl
@[simp] theorem touchLine_pc (c : CacheId) (i : Nat) (l : Line) (s : State) : (touchLine c i l s).pc = s.pc := by cases c <;> rfl
@[simp] theorem touchLine_z (c : CacheId) (i : Nat) (l : Line) (s : State) : (touchLine c i l s).z = s.z := by cases c <;> rfl
@[simp] theorem touchLine_n (c : CacheId) (i : Nat) (l : Line) (s : State) : (touchLine c i l s).n = s.n := by cases c <;> rfl
@[simp] theorem touchLine_controlStalled (c : CacheId) (i : Nat) (l : Line) (s : State) : (touchLine c i l s).controlStalled = s.controlStalled := by cases c <;> rfl
@[simp] theorem touchLine_dataStalled (c : CacheId) (i : Nat) (l : Line) (s : State) : (touchLine c i l s).dataStalled = s.dataStalled := by cases c <;> rfl
@[simp] theorem touchLine_dcacheStalled (c : CacheId) (i : Nat) (l : Line) (s : State) : (touchLine c i l s).dcacheStalled = s.dcacheStalled := by cases c <;> rfl
@[simp] theorem touchLine_feHalted (c : CacheId) (i : Nat) (l : Line) (s : State) : (touchLine c i l s).feHalted = s.feHalted := by cases c <;> rfl
@[simp] theorem touchLine_deHalted (c : CacheId) (i : Nat) (l : Line) (s : State) : (touchLine c i l s).deHalted = s.deHalted := by cases c <;> rfl
@[simp] theorem touchLine_exHalted (c : CacheId) (i : Nat) (l : Line) (s : State) : (touchLine c i l s).exHalted = s.exHalted := by cases c <;> rfl
@[simp] theorem touchLine_memHalted (c : CacheId) (i : Nat) (l : Line) (s : State) : (touchLine c i l s).memHalted = s.memHalted := by cases c <;> rfl
@[simp] theorem touchLine_status (c : CacheId) (i : Nat) (l : Line) (s : State) : (touchLine c i l s).status = s.status := by cases c <;> rfl
@[simp] theorem touchLine_cycleCount (c : CacheId) (i : Nat) (l : Line) (s : State) : (touchLine c i l s).cycleCount = s.cycleCount := by cases c <;> rfl
@[simp] theorem touchLine_retiredCount (c : CacheId) (i : Nat) (l : Line) (s : State) : (touchLine c i l s).retiredCount = s.retiredCount := by cases c <;> rfl
@[simp] theorem touchLine_ifde (c : CacheId) (i : Nat) (l : Line) (s : State) : (touchLine c i l s).ifde = s.ifde := by cases c <;> rfl
@[simp] theorem touchLine_deex (c : CacheId) (i : Nat) (l : Line) (s : State) : (touchLine c i l s).deex = s.deex := by cases c <;> rfl
@[simp] theorem touchLine_exmem (c : CacheId) (i : Nat) (l : Line) (s : State) : (touchLine c i l s).exmem = s.exmem := by cases c <;> rfl
@[simp] theorem touchLine_memwb (c : CacheId) (i : Nat) (l : Line) (s : State) : (touchLine c i l s).memwb = s.memwb := by cases c <;> rfl
@[simp] theorem touchLine_exmemCkpt (c : CacheId) (i : Nat) (l : Line) (s : State) : (touchLine c i l s).exmemCkpt = s.exmemCkpt := by cases c <;> rfl
@[simp] theorem touchLine_pred (c : CacheId) (i : Nat) (l : Line) (s : State) : (touchLine c i l s).pred = s.pred := by cases c <;> rfl
@[simp] theorem touchLine_mem (c : CacheId) (i : Nat) (l : Line) (s : State) : (touchLine c i l s).mem = s.mem := by cases c <;> rfl

@[simp] theorem touchLine_ts (c : CacheId) (i : Nat) (l : Line) (s : State) :
    (touchLine c i l s).ts = s.ts + 1 := by cases c <;> rfl
@[simp] theorem touchLine_ic_ic (i : Nat) (l : Line) (s : State) : (touchLine .ic i l s).ic =
    { s.ic with lines := tablePut s.ic.lines i { l with stamp := s.ts + 1 } } := rfl
@[simp] theorem touchLine_ic_dc (i : Nat) (l : Line) (s : State) : (touchLine .ic i l s).dc = s.dc := rfl
@[simp] theorem touchLine_dc_dc (i : Nat) (l : Line) (s : State) : (touchLine .dc i l s).dc =
    { s.dc with lines := tablePut s.dc.lines i { l with stamp := s.ts + 1 } } := rfl
@[simp] theorem touchLine_dc_ic (i : Nat) (l : Line) (s : State) : (touchLine .dc i l s).ic = s.ic := rfl

@[simp] theorem openQuery_regs (c : CacheId) (b : Word) (s : State) : (openQuery c b s).regs = s.regs := by unfold openQuery; split <;> simp
@[simp] theorem openQuery_pc (c : CacheId) (b : Word) (s : State) : (openQuery c b s).pc = s.pc := by unfold openQuery; split <;> simp
@[simp] theorem openQuery_z (c : CacheId) (b : Word) (s : State) : (openQuery c b s).z = s.z := by unfold openQuery; split <;> simp
@[simp] theorem openQuery_n (c : CacheId) (b : Word) (s : State) : (openQuery c b s).n = s.n := by unfold openQuery; split <;> simp
@[simp] theorem openQuery_controlStalled (c : CacheId) (b : Word) (s : State) : (openQuery c b s).controlStalled = s.controlStalled := by unfold openQuery; split <;> simp
@[simp] theorem openQuery_dataStalled (c : CacheId) (b : Word) (s : State) : (openQuery c b s).dataStalled = s.dataStalled := by unfold openQuery; split <;> simp
@[simp] theorem openQuery_dcacheStalled (c : CacheId) (b : Word) (s : State) : (openQuery c b s).dcacheStalled = s.dcacheStalled := by unfold openQuery; split <;> simp
@[simp] theorem openQuery_feHalted (c : CacheId) (b : Word) (s : State) : (openQuery c b s).feHalted = s.feHalted := by unfold openQuery; split <;> simp
@[simp] theorem openQuery_deHalted (c : CacheId) (b : Word) (s : State) : (openQuery c b s).deHalted = s.deHalted := by unfold openQuery; split <;> simp
@[simp] theorem openQuery_exHalted (c : CacheId) (b : Word) (s : State) : (openQuery c b s).exHalted = s.exHalted := by unfold openQuery; split <;> simp
@[simp] theorem openQuery_memHalted (c : CacheId) (b : Word) (s : State) : (openQuery c b s).memHalted = s.memHalted := by unfold openQuery; split <;> simp
@[simp] theorem openQuery_cycleCount (c : CacheId) (b : Word) (s : State) : (openQuery c b s).cycleCount = s.cycleCount := by unfold openQuery; split <;> simp
@[simp] theorem openQuery_retiredCount (c : CacheId) (b : Word) (s : State) : (openQuery c b s).retiredCount = s.retiredCount := by unfold openQuery; split <;> simp
@[simp] theorem openQuery_ifde (c : CacheId) (b : Word) (s : State) : (openQuery c b s).ifde = s.ifde := by unfold openQuery; split <;> simp
@[simp] theorem openQuery_deex (c : CacheId) (b : Word) (s : State) : (openQuery c b s).deex = s.deex := by unfold openQuery; split <;> simp
@[simp] theorem openQuery_exmem (c : CacheId) (b : Word) (s : State) : (openQuery c b s).exmem = s.exmem := by unfold openQuery; split <;> simp
@[simp] theorem openQuery_memwb (c : CacheId) (b : Word) (s : State) : (openQuery c b s).memwb = s.memwb := by unfold openQuery; split <;> simp
@[simp] theorem openQuery_exmemCkpt (c : CacheId) (b : Word) (s : State) : (openQuery c b s).exmemCkpt = s.exmemCkpt := by unfold openQuery; split <;> simp
@[simp] theorem openQuery_pred (c : CacheId) (b : Word) (s : State) : (openQuery c b s).pred = s.pred := by unfold openQuery; split <;> simp
@[simp] theorem openQuery_ts (c : CacheId) (b : Word) (s : State) : (openQuery c b s).ts = s.ts := by unfold openQuery; split <;> simp
@[simp] theorem openQuery_mem (c : CacheId) (b : Word) (s : State) : (openQuery c b s).mem = s.mem := by unfold openQuery; split <;> simp

@[simp] theorem openQuery_ic_dc (b : Word) (s : State) : (openQuery .ic b s).dc = s.dc := by
  unfold openQuery; split <;> simp
@[simp] theorem openQuery_dc_ic (b : Word) (s : State) : (openQuery .dc b s).ic = s.ic := by
  unfold openQuery; split <;> simp

@[simp] theorem storeLine_regs (p : Params) (c : CacheId) (i : Nat) (l : Line) (off k : Nat) (v : Word) (s : State) : (storeLine p c i l off k v s).regs = s.regs := by simp [storeLine]
@[simp] theorem storeLine_pc (p : Params) (c : CacheId) (i : Nat) (l : Line) (off k : Nat) (v : Word) (s : State) : (storeLine p c i l off k v s).pc = s.pc := by simp [storeLine]
@[simp] theorem storeLine_z (p : Params) (c : CacheId) (i : Nat) (l : Line) (off k : Nat) (v : Word) (s : State) : (storeLine p c i l off k v s).z = s.z := by simp [storeLine]
@[simp] theorem storeLine_n (p : Params) (c : CacheId) (i : Nat) (l : Line) (off k : Nat) (v : Word) (s : State) : (storeLine p c i l off k v s).n = s.n := by simp [storeLine]
@[simp] theorem storeLine_controlStalled (p : Params) (c : CacheId) (i : Nat) (l : Line) (off k : Nat) (v : Word) (s : State) : (storeLine p c i l off k v s).controlStalled = s.controlStalled := by simp [storeLine]
@[simp] theorem storeLine_dataStalled (p : Params) (c : CacheId) (i : Nat) (l : Line) (off k : Nat) (v : Word) (s : State) : (storeLine p c i l off k v s).dataStalled = s.dataStalled := by simp [storeLine]
@[simp] theorem storeLine_dcacheStalled (p : Params) (c : CacheId) (i : Nat) (l : Line) (off k : Nat) (v : Word) (s : State) : (storeLine p c i l off k v s).dcacheStalled = s.dcacheStalled := by simp [storeLine]
@[simp] theorem storeLine_feHalted (p : Params) (c : CacheId) (i : Nat) (l : Line) (off k : Nat) (v : Word) (s : State) : (storeLine p c i l off k v s).feHalted = s.feHalted := by simp [storeLine]
@[simp] theorem storeLine_deHalted (p : Params) (c : CacheId) (i : Nat) (l : Line) (off k : Nat) (v : Word) (s : State) : (storeLine p c i l off k v s).deHalted = s.deHalted := by simp [storeLine]
@[simp] theorem storeLine_exHalted (p : Params) (c : CacheId) (i : Nat) (l : Line) (off k : Nat) (v : Word) (s : State) : (storeLine p c i l off k v s).exHalted = s.exHalted := by simp [storeLine]
@[simp] theorem storeLine_memHalted (p : Params) (c : CacheId) (i : Nat) (l : Line) (off k : Nat) (v : Word) (s : State) : (storeLine p c i l off k v s).memHalted = s.memHalted := by simp [storeLine]
@[simp] theorem storeLine_status (p : Params) (c : CacheId) (i : Nat) (l : Line) (off k : Nat) (v : Word) (s : State) : (storeLine p c i l off k v s).status = s.status := by simp [storeLine]
@[simp] theorem storeLine_cycleCount (p : Params) (c : CacheId) (i : Nat) (l : Line) (off k : Nat) (v : Word) (s : State) : (storeLine p c i l off k v s).cycleCount = s.cycleCount := by simp [storeLine]
@[simp] theorem storeLine_retiredCount (p : Params) (c : CacheId) (i : Nat) (l : Line) (off k : Nat) (v : Word) (s : State) : (storeLine p c i l off k v s).retiredCount = s.retiredCount := by simp [storeLine]
@[simp] theorem storeLine_ifde (p : Params) (c : CacheId) (i : Nat) (l : Line) (off k : Nat) (v : Word) (s : State) : (storeLine p c i l off k v s).ifde = s.ifde := by simp [storeLine]
@[simp] theorem storeLine_deex (p : Params) (c : CacheId) (i : Nat) (l : Line) (off k : Nat) (v : Word) (s : State) : (storeLine p c i l off k v s).deex = s.deex := by simp [storeLine]
@[simp] theorem storeLine_exmem (p : Params) (c : CacheId) (i : Nat) (l : Line) (off k : Nat) (v : Word) (s : State) : (storeLine p c i l off k v s).exmem = s.exmem := by simp [storeLine]
@[simp] theorem storeLine_memwb (p : Params) (c : CacheId) (i : Nat) (l : Line) (off k : Nat) (v : Word) (s : State) : (storeLine p c i l off k v s).memwb = s.memwb := by simp [storeLine]
@[simp] theorem storeLine_exmemCkpt (p : Params) (c : CacheId) (i : Nat) (l : Line) (off k : Nat) (v : Word) (s : State) : (storeLine p c i l off k v s).exmemCkpt = s.exmemCkpt := by simp [storeLine]
@[simp] theorem storeLine_pred (p : Params) (c : CacheId) (i : Nat) (l : Line) (off k : Nat) (v : Word) (s : State) : (storeLine p c i l off k v s).pred = s.pred := by simp [storeLine]
@[simp] theorem storeLine_ts (p : Params) (c : CacheId) (i : Nat) (l : Line) (off k : Nat) (v : Word) (s : State) : (storeLine p c i l off k v s).ts = s.ts := by simp [storeLine]

@[simp] theorem storeLine_dc_ic (p : Params) (i : Nat) (l : Line) (off k : Nat) (v : Word) (s : State) :
    (storeLine p .dc i l off k v s).ic = s.ic := rfl

@[simp] theorem cacheFill_regs (p : Params) (c : CacheId) (b : Word) (s : State) : (cacheFill p c b s).regs = s.regs := by simp [cacheFill]
@[simp] theorem cacheFill_pc (p : Params) (c : CacheId) (b : Word) (s : State) : (cacheFill p c b s).pc = s.pc := by simp [cacheFill]
@[simp] theorem cacheFill_z (p : Params) (c : CacheId) (b : Word) (s : State) : (cacheFill p c b s).z = s.z := by simp [cacheFill]
@[simp] theorem cacheFill_n (p : Params) (c : CacheId) (b : Word) (s : State) : (cacheFill p c b s).n = s.n := by simp [cacheFill]
@[simp] theorem cacheFill_controlStalled (p : Params) (c : CacheId) (b : Word) (s : State) : (cacheFill p c b s).controlStalled = s.controlStalled := by simp [cacheFill]
@[simp] theorem cacheFill_dataStalled (p : Params) (c : CacheId) (b : Word) (s : State) : (cacheFill p c b s).dataStalled = s.dataStalled := by simp [cacheFill]
@[simp] theorem cacheFill_dcacheStalled (p : Params) (c : CacheId) (b : Word) (s : State) : (cacheFill p c b s).dcacheStalled = s.dcacheStalled := by simp [cacheFill]
@[simp] theorem cacheFill_feHalted (p : Params) (c : CacheId) (b : Word) (s : State) : (cacheFill p c b s).feHalted = s.feHalted := by simp [cacheFill]
@[simp] theorem cacheFill_deHalted (p : Params) (c : CacheId) (b : Word) (s : State) : (cacheFill p c b s).deHalted = s.deHalted := by simp [cacheFill]
@[simp] theorem cacheFill_exHalted (p : Params) (c : CacheId) (b : Word) (s : State) : (cacheFill p c b s).exHalted = s.exHalted := by simp [cacheFill]
@[simp] theorem cacheFill_memHalted (p : Params) (c : CacheId) (b : Word) (s : State) : (cacheFill p c b s).memHalted = s.memHalted := by simp [cacheFill]
@[simp] theorem cacheFill_status (p : Params) (c : CacheId) (b : Word) (s : State) : (cacheFill p c b s).status = s.status := by simp [cacheFill]
@[simp] theorem cacheFill_cycleCount (p : Params) (c : CacheId) (b : Word) (s : State) : (cacheFill p c b s).cycleCount = s.cycleCount := by simp [cacheFill]
@[simp] theorem cacheFill_retiredCount (p : Params) (c : CacheId) (b : Word) (s : State) : (cacheFill p c b s).retiredCount = s.retiredCount := by simp [cacheFill]
@[simp] theorem cacheFill_ifde (p : Params) (c : CacheId) (b : Word) (s : State) : (cacheFill p c b s).ifde = s.ifde := by simp [cacheFill]
@[simp] theorem cacheFill_deex (p : Params) (c : CacheId) (b : Word) (s : State) : (cacheFill p c b s).deex = s.deex := by simp [cacheFill]
@[simp] theorem cacheFill_exmem (p : Params) (c : CacheId) (b : Word) (s : State) : (cacheFill p c b s).exmem = s.exmem := by simp [cacheFill]
@[simp] theorem cacheFill_memwb (p : Params) (c : CacheId) (b : Word) (s : State) : (cacheFill p c b s).memwb = s.memwb := by simp [cacheFill]
@[simp] theorem cacheFill_exmemCkpt (p : Params) (c : CacheId) (b : Word) (s : State) : (cacheFill p c b s).exmemCkpt = s.exmemCkpt := by simp [cacheFill]
@[simp] theorem cacheFill_pred (p : Params) (c : CacheId) (b : Word) (s : State) : (cacheFill p c b s).pred = s.pred := by simp [cacheFill]
@[simp] theorem cacheFill_mem (p : Params) (c : CacheId) (b : Word) (s : State) : (cacheFill p c b s).mem = s.mem := by simp [cacheFill]

@[simp] theorem cacheFill_ts (p : Params) (c : CacheId) (b : Word) (s : State) :
    (cacheFill p c b s).ts = s.ts + 1 := by simp [cacheFill]
@[simp] theorem cacheFill_ic_dc (p : Params) (b : Word) (s : State) :
    (cacheFill p .ic b s).dc = s.dc := rfl
@[simp] theorem cacheFill_dc_ic (p : Params) (b : Word) (s : State) :
    (cacheFill p .dc b s).ic = s.ic := rfl

@[simp] theorem cacheCancel_regs (p : Params) (c : CacheId) (a : Word) (s : State) : (cacheCancel p c a s).regs = s.regs := by simp [cacheCancel]
@[simp] theorem cacheCancel_pc (p : Params) (c : CacheId) (a : Word) (s : State) : (cacheCancel p c a s).pc = s.pc := by simp [cacheCancel]
@[simp] theorem cacheCancel_z (p : Params) (c : CacheId) (a : Word) (s : State) : (cacheCancel p c a s).z = s.z := by simp [cacheCancel]
@[simp] theorem cacheCancel_n (p : Params) (c : CacheId) (a : Word) (s : State) : (cacheCancel p c a s).n = s.n := by simp [cacheCancel]
@[simp] theorem cacheCancel_controlStalled (p : Params) (c : CacheId) (a : Word) (s : State) : (cacheCancel p c a s).controlStalled = s.controlStalled := by simp [cacheCancel]
@[simp] theorem cacheCancel_dataStalled (p : Params) (c : CacheId) (a : Word) (s : State) : (cacheCancel p c a s).dataStalled = s.dataStalled := by simp [cacheCancel]
@[simp] theorem cacheCancel_dcacheStalled (p : Params) (c : CacheId) (a : Word) (s : State) : (cacheCancel p c a s).dcacheStalled = s.dcacheStalled := by simp [cacheCancel]
@[simp] theorem cacheCancel_feHalted (p : Params) (c : CacheId) (a : Word) (s : State) : (cacheCancel p c a s).feHalted = s.feHalted := by simp [cacheCancel]
@[simp] theorem cacheCancel_deHalted (p : Params) (c : CacheId) (a : Word) (s : State) : (cacheCancel p c a s).deHalted = s.deHalted := by simp [cacheCancel]
@[simp] theorem cacheCancel_exHalted (p : Params) (c : CacheId) (a : Word) (s : State) : (cacheCancel p c a s).exHalted = s.exHalted := by simp [cacheCancel]
@[simp] theorem cacheCancel_memHalted (p : Params) (c : CacheId) (a : Word) (s : State) : (cacheCancel p c a s).memHalted = s.memHalted := by simp [cacheCancel]
@[simp] theorem cacheCancel_status (p : Params) (c : CacheId) (a : Word) (s : State) : (cacheCancel p c a s).status = s.status := by simp [cacheCancel]
@[simp] theorem cacheCancel_cycleCount (p : Params) (c : CacheId) (a : Word) (s : State) : (cacheCancel p c a s).cycleCount = s.cycleCount := by simp [cacheCancel]
@[simp] theorem cacheCancel_retiredCount (p : Params) (c : CacheId) (a : Word) (s : State) : (cacheCancel p c a s).retiredCount = s.retiredCount := by simp [cacheCancel]
@[simp] theorem cacheCancel_ifde (p : Params) (c : CacheId) (a : Word) (s : State) : (cacheCancel p c a s).ifde = s.ifde := by simp [cacheCancel]
@[simp] theorem cacheCancel_deex (p : Params) (c : CacheId) (a : Word) (s : State) : (cacheCancel p c a s).deex = s.deex := by simp [cacheCancel]
@[simp] theorem cacheCancel_exmem (p : Params) (c : CacheId) (a : Word) (s : State) : (cacheCancel p c a s).exmem = s.exmem := by simp [cacheCancel]
@[simp] theorem cacheCancel_memwb (p : Params) (c : CacheId) (a : Word) (s : State) : (cacheCancel p c a s).memwb = s.memwb := by simp [cacheCancel]
@[simp] theorem cacheCancel_exmemCkpt (p : Params) (c : CacheId) (a : Word) (s : State) : (cacheCancel p c a s).exmemCkpt = s.exmemCkpt := by simp [cacheCancel]
@[simp] theorem cacheCancel_pred (p : Params) (c : CacheId) (a : Word) (s : State) : (cacheCancel p c a s).pred = s.pred := by simp [cacheCancel]
@[simp] theorem cacheCancel_ts (p : Params) (c : CacheId) (a : Word) (s : State) : (cacheCancel p c a s).ts = s.ts := by simp [cacheCancel]
@[simp] theorem cacheCancel_mem (p : Params) (c : CacheId) (a : Word) (s : State) : (cacheCancel p c a s).mem = s.mem := by simp [cacheCancel]

@[simp] theorem cacheCancel_ic_dc (p : Params) (a : Word) (s : State) :
    (cacheCancel p .ic a s).dc = s.dc := rfl
@[simp] theorem cacheCancel_ic_lines (p : Params) (a : Word) (s : State) :
    (cacheCancel p .ic a s).ic.lines = s.ic.lines := rfl

/-! ## Parts of the stages -/

@[simp] theorem writebackStop_regs (s : State) : (writebackStop s).regs = s.regs := by unfold writebackStop; split <;> simp
@[simp] theorem writebackStop_pc (s : State) : (writebackStop s).pc = s.pc := by unfold writebackStop; split <;> simp
@[simp] theorem writebackStop_z (s : State) : (writebackStop s).z = s.z := by unfold writebackStop; split <;> simp
@[simp] theorem writebackStop_n (s : State) : (writebackStop s).n = s.n := by unfold writebackStop; split <;> simp
@[simp] theorem writebackStop_controlStalled (s : State) : (writebackStop s).controlStalled = s.controlStalled := by unfold writebackStop; split <;> simp
@[simp] theorem writebackStop_dataStalled (s : State) : (writebackStop s).dataStalled = s.dataStalled := by unfold writebackStop; split <;> simp
@[simp] theorem writebackStop_dcacheStalled (s : State) : (writebackStop s).dcacheStalled = s.dcacheStalled := by unfold writebackStop; split <;> simp
@[simp] theorem writebackStop_feHalted (s : State) : (writebackStop s).feHalted = s.feHalted := by unfold writebackStop; split <;> simp
@[simp] theorem writebackStop_deHalted (s : State) : (writebackStop s).deHalted = s.deHalted := by unfold writebackStop; split <;> simp
@[simp] theorem writebackStop_exHalted (s : State) : (writebackStop s).exHalted = s.exHalted := by unfold writebackStop; split <;> simp
@[simp] theorem writebackStop_memHalted (s : State) : (writebackStop s).memHalted = s.memHalted := by unfold writebackStop; split <;> simp
@[simp] theorem writebackStop_cycleCount (s : State) : (writebackStop s).cycleCount = s.cycleCount := by unfold writebackStop; split <;> simp
@[simp] theorem writebackStop_retiredCount (s : State) : (writebackStop s).retiredCount = s.retiredCount := by unfold writebackStop; split <;> simp
@[simp] theorem writebackStop_ifde (s : State) : (writebackStop s).ifde = s.ifde := by unfold writebackStop; split <;> simp
@[simp] theorem writebackStop_deex (s : State) : (writebackStop s).deex = s.deex := by unfold writebackStop; split <;> simp
@[simp] theorem writebackStop_exmem (s : State) : (writebackStop s).exmem = s.exmem := by unfold writebackStop; split <;> simp
@[simp] theorem writebackStop_memwb (s : State) : (writebackStop s).memwb = s.memwb := by unfold writebackStop; split <;> simp
@[simp] theorem writebackStop_exmemCkpt (s : State) : (writebackStop s).exmemCkpt = s.exmemCkpt := by unfold writebackStop; split <;> simp
@[simp] theorem writebackStop_pred (s : State) : (writebackStop s).pred = s.pred := by unfold writebackStop; split <;> simp
@[simp] theorem writebackStop_ic (s : State) : (writebackStop s).ic = s.ic := by unfold writebackStop; split <;> simp
@[simp] theorem writebackStop_dc (s : State) : (writebackStop s).dc = s.dc := by unfold writebackStop; split <;> simp
@[simp] theorem writebackStop_ts (s : State) : (writebackStop s).ts = s.ts := by unfold writebackStop; split <;> simp
@[simp] theorem writebackStop_mem (s : State) : (writebackStop s).mem = s.mem := by unfold writebackStop; split <;> simp

@[simp] theorem writebackReg_pc (m : MemWb) (s : State) : (writebackReg m s).pc = s.pc := by unfold writebackReg; split <;> simp
@[simp] theorem writebackReg_z (m : MemWb) (s : State) : (writebackReg m s).z = s.z := by unfold writebackReg; split <;> simp
@[simp] theorem writebackReg_n (m : MemWb) (s : State) : (writebackReg m s).n = s.n := by unfold writebackReg; split <;> simp
@[simp] theorem writebackReg_controlStalled (m : MemWb) (s : State) : (writebackReg m s).controlStalled = s.controlStalled := by unfold writebackReg; split <;> simp
@[simp] theorem writebackReg_dataStalled (m : MemWb) (s : State) : (writebackReg m s).dataStalled = s.dataStalled := by unfold writebackReg; split <;> simp
@[simp] theorem writebackReg_dcacheStalled (m : MemWb) (s : State) : (writebackReg m s).dcacheStalled = s.dcacheStalled := by unfold writebackReg; split <;> simp
@[simp] theorem writebackReg_feHalted (m : MemWb) (s : State) : (writebackReg m s).feHalted = s.feHalted := by unfold writebackReg; split <;> simp
@[simp] theorem writebackReg_deHalted (m : MemWb) (s : State) : (writebackReg m s).deHalted = s.deHalted := by unfold writebackReg; split <;> simp
@[simp] theorem writebackReg_exHalted (m : MemWb) (s : State) : (writebackReg m s).exHalted = s.exHalted := by unfold writebackReg; split <;> simp
@[simp] theorem writebackReg_memHalted (m : MemWb) (s : State) : (writebackReg m s).memHalted = s.memHalted := by unfold writebackReg; split <;> simp
@[simp] theorem writebackReg_status (m : MemWb) (s : State) : (writebackReg m s).status = s.status := by unfold writebackReg; split <;> simp
@[simp] theorem writebackReg_cycleCount (m : MemWb) (s : State) : (writebackReg m s).cycleCount = s.cycleCount := by unfold writebackReg; split <;> simp
@[simp] theorem writebackReg_retiredCount (m : MemWb) (s : State) : (writebackReg m s).retiredCount = s.retiredCount := by unfold writebackReg; split <;> simp
@[simp] theorem writebackReg_ifde (m : MemWb) (s : State) : (writebackReg m s).ifde = s.ifde := by unfold writebackReg; split <;> simp
@[simp] theorem writebackReg_deex (m : MemWb) (s : State) : (writebackReg m s).deex = s.deex := by unfold writebackReg; split <;> simp
@[simp] theorem writebackReg_exmem (m : MemWb) (s : State) : (writebackReg m s).exmem = s.exmem := by unfold writebackReg; split <;> simp
@[simp] theorem writebackReg_memwb (m : MemWb) (s : State) : (writebackReg m s).memwb = s.memwb := by unfold writebackReg; split <;> simp
@[simp] theorem writebackReg_exmemCkpt (m : MemWb) (s : State) : (writebackReg m s).exmemCkpt = s.exmemCkpt := by unfold writebackReg; split <;> simp
@[simp] theorem writebackReg_pred (m : MemWb) (s : State) : (writebackReg m s).pred = s.pred := by unfold writebackReg; split <;> simp
@[simp] theorem writebackReg_ic (m : MemWb) (s : State) : (writebackReg m s).ic = s.ic := by unfold writebackReg; split <;> simp
@[simp] theorem writebackReg_dc (m : MemWb) (s : State) : (writebackReg m s).dc = s.dc := by unfold writebackReg; split <;> simp
@[simp] theorem writebackReg_ts (m : MemWb) (s : State) : (writebackReg m s).ts = s.ts := by unfold writebackReg; split <;> simp
@[simp] theorem writebackReg_mem (m : MemWb) (s : State) : (writebackReg m s).mem = s.mem := by unfold writebackReg; split <;> simp

@[simp] theorem writebackFlags_regs (m : MemWb) (s : State) : (writebackFlags m s).regs = s.regs := by unfold writebackFlags; split <;> simp
@[simp] theorem writebackFlags_pc (m : MemWb) (s : State) : (writebackFlags m s).pc = s.pc := by unfold writebackFlags; split <;> simp
@[simp] theorem writebackFlags_controlStalled (m : MemWb) (s : State) : (writebackFlags m s).controlStalled = s.controlStalled := by unfold writebackFlags; split <;> simp
@[simp] theorem writebackFlags_dataStalled (m : MemWb) (s : State) : (writebackFlags m s).dataStalled = s.dataStalled := by unfold writebackFlags; split <;> simp
@[simp] theorem writebackFlags_dcacheStalled (m : MemWb) (s : State) : (writebackFlags m s).dcacheStalled = s.dcacheStalled := by unfold writebackFlags; split <;> simp
@[simp] theorem writebackFlags_feHalted (m : MemWb) (s : State) : (writebackFlags m s).feHalted = s.feHalted := by unfold writebackFlags; split <;> simp
@[simp] theorem writebackFlags_deHalted (m : MemWb) (s : State) : (writebackFlags m s).deHalted = s.deHalted := by unfold writebackFlags; split <;> simp
@[simp] theorem writebackFlags_exHalted (m : MemWb) (s : State) : (writebackFlags m s).exHalted = s.exHalted := by unfold writebackFlags; split <;> simp
@[simp] theorem writebackFlags_memHalted (m : MemWb) (s : State) : (writebackFlags m s).memHalted = s.memHalted := by unfold writebackFlags; split <;> simp
@[simp] theorem writebackFlags_status (m : MemWb) (s : State) : (writebackFlags m s).status = s.status := by unfold writebackFlags; split <;> simp
@[simp] theorem writebackFlags_cycleCount (m : MemWb) (s : State) : (writebackFlags m s).cycleCount = s.cycleCount := by unfold writebackFlags; split <;> simp
@[simp] theorem writebackFlags_retiredCount (m : MemWb) (s : State) : (writebackFlags m s).retiredCount = s.retiredCount := by unfold writebackFlags; split <;> simp
@[simp] theorem writebackFlags_ifde (m : MemWb) (s : State) : (writebackFlags m s).ifde = s.ifde := by unfold writebackFlags; split <;> simp
@[simp] theorem writebackFlags_deex (m : MemWb) (s : State) : (writebackFlags m s).deex = s.deex := by unfold writebackFlags; split <;> simp
@[simp] theorem writebackFlags_exmem (m : MemWb) (s : State) : (writebackFlags m s).exmem = s.exmem := by unfold writebackFlags; split <;> simp
@[simp] theorem writebackFlags_memwb (m : MemWb) (s : State) : (writebackFlags m s).memwb = s.memwb := by unfold writebackFlags; split <;> simp
@[simp] theorem writebackFlags_exmemCkpt (m : MemWb) (s : State) : (writebackFlags m s).exmemCkpt = s.exmemCkpt := by unfold writebackFlags; split <;> simp
@[simp] theorem writebackFlags_pred (m : MemWb) (s : State) : (writebackFlags m s).pred = s.pred := by unfold writebackFlags; split <;> simp
@[simp] theorem writebackFlags_ic (m : MemWb) (s : State) : (writebackFlags m s).ic = s.ic := by unfold writebackFlags; split <;> simp
@[simp] theorem writebackFlags_dc (m : MemWb) (s : State) : (writebackFlags m s).dc = s.dc := by unfold writebackFlags; split <;> simp
@[simp] theorem writebackFlags_ts (m : MemWb) (s : State) : (writebackFlags m s).ts = s.ts := by unfold writebackFlags; split <;> simp
@[simp] theorem writebackFlags_mem (m : MemWb) (s : State) : (writebackFlags m s).mem = s.mem := by unfold writebackFlags; split <;> simp

@[simp] theorem retire_pc (m : MemWb) (s : State) : (retire m s).pc = s.pc := by simp [retire]
@[simp] theorem retire_controlStalled (m : MemWb) (s : State) : (retire m s).controlStalled = s.controlStalled := by simp [retire]
@[simp] theorem retire_dataStalled (m : MemWb) (s : State) : (retire m s).dataStalled = s.dataStalled := by simp [retire]
@[simp] theorem retire_dcacheStalled (m : MemWb) (s : State) : (retire m s).dcacheStalled = s.dcacheStalled := by simp [retire]
@[simp] theorem retire_feHalted (m : MemWb) (s : State) : (retire m s).feHalted = s.feHalted := by simp [retire]
@[simp] theorem retire_deHalted (m : MemWb) (s : State) : (retire m s).deHalted = s.deHalted := by simp [retire]
@[simp] theorem retire_exHalted (m : MemWb) (s : State) : (retire m s).exHalted = s.exHalted := by simp [retire]
@[simp] theorem retire_memHalted (m : MemWb) (s : State) : (retire m s).memHalted = s.memHalted := by simp [retire]
@[simp] theorem retire_status (m : MemWb) (s : State) : (retire m s).status = s.status := by simp [retire]
@[simp] theorem retire_cycleCount (m : MemWb) (s : State) : (retire m s).cycleCount = s.cycleCount := by simp [retire]
@[simp] theorem retire_ifde (m : MemWb) (s : State) : (retire m s).ifde = s.ifde := by simp [retire]
@[simp] theorem retire_deex (m : MemWb) (s : State) : (retire m s).deex = s.deex := by simp [retire]
@[simp] theorem retire_exmem (m : MemWb) (s : State) : (retire m s).exmem = s.exmem := by simp [retire]
@[simp] theorem retire_memwb (m : MemWb) (s : State) : (retire m s).memwb = s.memwb := by simp [retire]
@[simp] theorem retire_exmemCkpt (m : MemWb) (s : State) : (retire m s).exmemCkpt = s.exmemCkpt := by simp [retire]
@[simp] theorem retire_pred (m : MemWb) (s : State) : (retire m s).pred = s.pred := by simp [retire]
@[simp] theorem retire_ic (m : MemWb) (s : State) : (retire m s).ic = s.ic := by simp [retire]
@[simp] theorem retire_dc (m : MemWb) (s : State) : (retire m s).dc = s.dc := by simp [retire]
@[simp] theorem retire_ts (m : MemWb) (s : State) : (retire m s).ts = s.ts := by simp [retire]
@[simp] theorem retire_mem (m : MemWb) (s : State) : (retire m s).mem = s.mem := by simp [retire]

@[simp] theorem retire_retiredCount (m : MemWb) (s : State) :
    (retire m s).retiredCount = s.retiredCount + 1 := by simp [retire]

@[simp] theorem propagateMemHalt_regs (s : State) : (propagateMemHalt s).regs = s.regs := by unfold propagateMemHalt; split <;> simp
@[simp] theorem propagateMemHalt_pc (s : State) : (propagateMemHalt s).pc = s.pc := by unfold propagateMemHalt; split <;> simp
@[simp] theorem propagateMemHalt_z (s : State) : (propagateMemHalt s).z = s.z := by unfold propagateMemHalt; split <;> simp
@[simp] theorem propagateMemHalt_n (s : State) : (propagateMemHalt s).n = s.n := by unfold propagateMemHalt; split <;> simp
@[simp] theorem propagateMemHalt_controlStalled (s : State) : (propagateMemHalt s).controlStalled = s.controlStalled := by unfold propagateMemHalt; split <;> simp
@[simp] theorem propagateMemHalt_dataStalled (s : State) : (propagateMemHalt s).dataStalled = s.dataStalled := by unfold propagateMemHalt; split <;> simp
@[simp] theorem propagateMemHalt_dcacheStalled (s : State) : (propagateMemHalt s).dcacheStalled = s.dcacheStalled := by unfold propagateMemHalt; split <;> simp
@[simp] theorem propagateMemHalt_feHalted (s : State) : (propagateMemHalt s).feHalted = s.feHalted := by unfold propagateMemHalt; split <;> simp
@[simp] theorem propagateMemHalt_deHalted (s : State) : (propagateMemHalt s).deHalted = s.deHalted := by unfold propagateMemHalt; split <;> simp
@[simp] theorem propagateMemHalt_exHalted (s : State) : (propagateMemHalt s).exHalted = s.exHalted := by unfold propagateMemHalt; split <;> simp
@[simp] theorem propagateMemHalt_status (s : State) : (propagateMemHalt s).status = s.status := by unfold propagateMemHalt; split <;> simp
@[simp] theorem propagateMemHalt_cycleCount (s : State) : (propagateMemHalt s).cycleCount = s.cycleCount := by unfold propagateMemHalt; split <;> simp
@[simp] theorem propagateMemHalt_retiredCount (s : State) : (propagateMemHalt s).retiredCount = s.retiredCount := by unfold propagateMemHalt; split <;> simp
@[simp] theorem propagateMemHalt_ifde (s : State) : (propagateMemHalt s).ifde = s.ifde := by unfold propagateMemHalt; split <;> simp
@[simp] theorem propagateMemHalt_deex (s : State) : (propagateMemHalt s).deex = s.deex := by unfold propagateMemHalt; split <;> simp
@[simp] theorem propagateMemHalt_exmem (s : State) : (propagateMemHalt s).exmem = s.exmem := by unfold propagateMemHalt; split <;> simp
@[simp] theorem propagateMemHalt_memwb (s : State) : (propagateMemHalt s).memwb = s.memwb := by unfold propagateMemHalt; split <;> simp
@[simp] theorem propagateMemHalt_exmemCkpt (s : State) : (propagateMemHalt s).exmemCkpt = s.exmemCkpt := by unfold propagateMemHalt; split <;> simp
@[simp] theorem propagateMemHalt_pred (s : State) : (propagateMemHalt s).pred = s.pred := by unfold propagateMemHalt; split <;> simp
@[simp] theorem propagateMemHalt_ic (s : State) : (propagateMemHalt s).ic = s.ic := by unfold propagateMemHalt; split <;> simp
@[simp] theorem propagateMemHalt_dc (s : State) : (propagateMemHalt s).dc = s.dc := by unfold propagateMemHalt; split <;> simp
@[simp] theorem propagateMemHalt_ts (s : State) : (propagateMemHalt s).ts = s.ts := by unfold propagateMemHalt; split <;> simp
@[simp] theorem propagateMemHalt_mem (s : State) : (propagateMemHalt s).mem = s.mem := by unfold propagateMemHalt; split <;> simp

@[simp] theorem restoreExMem_regs (s : State) : (restoreExMem s).regs = s.regs := by unfold restoreExMem; split <;> simp
@[simp] theorem restoreExMem_pc (s : State) : (restoreExMem s).pc = s.pc := by unfold restoreExMem; split <;> simp
@[simp] theorem restoreExMem_z (s : State) : (restoreExMem s).z = s.z := by unfold restoreExMem; split <;> simp
@[simp] theorem restoreExMem_n (s : State) : (restoreExMem s).n = s.n := by unfold restoreExMem; split <;> simp
@[simp] theorem restoreExMem_controlStalled (s : State) : (restoreExMem s).controlStalled = s.controlStalled := by unfold restoreExMem; split <;> simp
@[simp] theorem restoreExMem_dataStalled (s : State) : (restoreExMem s).dataStalled = s.dataStalled := by unfold restoreExMem; split <;> simp
@[simp] theorem restoreExMem_dcacheStalled (s : State) : (restoreExMem s).dcacheStalled = s.dcacheStalled := by unfold restoreExMem; split <;> simp
@[simp] theorem restoreExMem_feHalted (s : State) : (restoreExMem s).feHalted = s.feHalted := by unfold restoreExMem; split <;> simp
@[simp] theorem restoreExMem_deHalted (s : State) : (restoreExMem s).deHalted = s.deHalted := by unfold restoreExMem; split <;> simp
@[simp] theorem restoreExMem_exHalted (s : State) : (restoreExMem s).exHalted = s.exHalted := by unfold restoreExMem; split <;> simp
@[simp] theorem restoreExMem_memHalted (s : State) : (restoreExMem s).memHalted = s.memHalted := by unfold restoreExMem; split <;> simp
@[simp] theorem restoreExMem_status (s : State) : (restoreExMem s).status = s.status := by unfold restoreExMem; split <;> simp
@[simp] theorem restoreExMem_cycleCount (s : State) : (restoreExMem s).cycleCount = s.cycleCount := by unfold restoreExMem; split <;> simp
@[simp] theorem restoreExMem_retiredCount (s : State) : (restoreExMem s).retiredCount = s.retiredCount := by unfold restoreExMem; split <;> simp
@[simp] theorem restoreExMem_ifde (s : State) : (restoreExMem s).ifde = s.ifde := by unfold restoreExMem; split <;> simp
@[simp] theorem restoreExMem_deex (s : State) : (restoreExMem s).deex = s.deex := by unfold restoreExMem; split <;> simp
@[simp] theorem restoreExMem_memwb (s : State) : (restoreExMem s).memwb = s.memwb := by unfold restoreExMem; split <;> simp
@[simp] theorem restoreExMem_exmemCkpt (s : State) : (restoreExMem s).exmemCkpt = s.exmemCkpt := by unfold restoreExMem; split <;> simp
@[simp] theorem restoreExMem_pred (s : State) : (restoreExMem s).pred = s.pred := by unfold restoreExMem; split <;> simp
@[simp] theorem restoreExMem_ic (s : State) : (restoreExMem s).ic = s.ic := by unfold restoreExMem; split <;> simp
@[simp] theorem restoreExMem_dc (s : State) : (restoreExMem s).dc = s.dc := by unfold restoreExMem; split <;> simp
@[simp] theorem restoreExMem_ts (s : State) : (restoreExMem s).ts = s.ts := by unfold restoreExMem; split <;> simp
@[simp] theorem restoreExMem_mem (s : State) : (restoreExMem s).mem = s.mem := by unfold restoreExMem; split <;> simp

@[simp] theorem stallMemory_regs (s : State) : (stallMemory s).regs = s.regs := by unfold stallMemory; cases s.dcacheStalled <;> rfl
@[simp] theorem stallMemory_pc (s : State) : (stallMemory s).pc = s.pc := by unfold stallMemory; cases s.dcacheStalled <;> rfl
@[simp] theorem stallMemory_z (s : State) : (stallMemory s).z = s.z := by unfold stallMemory; cases s.dcacheStalled <;> rfl
@[simp] theorem stallMemory_n (s : State) : (stallMemory s).n = s.n := by unfold stallMemory; cases s.dcacheStalled <;> rfl
@[simp] theorem stallMemory_controlStalled (s : State) : (stallMemory s).controlStalled = s.controlStalled := by unfold stallMemory; cases s.dcacheStalled <;> rfl
@[simp] theorem stallMemory_dataStalled (s : State) : (stallMemory s).dataStalled = s.dataStalled := by unfold stallMemory; cases s.dcacheStalled <;> rfl
@[simp] theorem stallMemory_feHalted (s : State) : (stallMemory s).feHalted = s.feHalted := by unfold stallMemory; cases s.dcacheStalled <;> rfl
@[simp] theorem stallMemory_deHalted (s : State) : (stallMemory s).deHalted = s.deHalted := by unfold stallMemory; cases s.dcacheStalled <;> rfl
@[simp] theorem stallMemory_exHalted (s : State) : (stallMemory s).exHalted = s.exHalted := by unfold stallMemory; cases s.dcacheStalled <;> rfl
@[simp] theorem stallMemory_memHalted (s : State) : (stallMemory s).memHalted = s.memHalted := by unfold stallMemory; cases s.dcacheStalled <;> rfl
@[simp] theorem stallMemory_status (s : State) : (stallMemory s).status = s.status := by unfold stallMemory; cases s.dcacheStalled <;> rfl
@[simp] theorem stallMemory_cycleCount (s : State) : (stallMemory s).cycleCount = s.cycleCount := by unfold stallMemory; cases s.dcacheStalled <;> rfl
@[simp] theorem stallMemory_retiredCount (s : State) : (stallMemory s).retiredCount = s.retiredCount := by unfold stallMemory; cases s.dcacheStalled <;> rfl
@[simp] theorem stallMemory_ifde (s : State) : (stallMemory s).ifde = s.ifde := by unfold stallMemory; cases s.dcacheStalled <;> rfl
@[simp] theorem stallMemory_deex (s : State) : (stallMemory s).deex = s.deex := by unfold stallMemory; cases s.dcacheStalled <;> rfl
@[simp] theorem stallMemory_exmem (s : State) : (stallMemory s).exmem = s.exmem := by unfold stallMemory; cases s.dcacheStalled <;> rfl
@[simp] theorem stallMemory_pred (s : State) : (stallMemory s).pred = s.pred := by unfold stallMemory; cases s.dcacheStalled <;> rfl
@[simp] theorem stallMemory_ic (s : State) : (stallMemory s).ic = s.ic := by unfold stallMemory; cases s.dcacheStalled <;> rfl
@[simp] theorem stallMemory_dc (s : State) : (stallMemory s).dc = s.dc := by unfold stallMemory; cases s.dcacheStalled <;> rfl
@[simp] theorem stallMemory_ts (s : State) : (stallMemory s).ts = s.ts := by unfold stallMemory; cases s.dcacheStalled <;> rfl
@[simp] theorem stallMemory_mem (s : State) : (stallMemory s).mem = s.mem := by unfold stallMemory; cases s.dcacheStalled <;> rfl

@[simp] theorem stallMemory_memwb (s : State) :
    (stallMemory s).memwb = bubbleMemWb .memBubble s.exmem.pc := rfl
@[simp] theorem stallMemory_dcacheStalled (s : State) : (stallMemory s).dcacheStalled = true := by
  unfold stallMemory; cases h : s.dcacheStalled <;> simp [h]

@[simp] theorem completeMemory_regs (d : Word) (s : State) : (completeMemory d s).regs = s.regs := by simp [completeMemory]
@[simp] theorem completeMemory_pc (d : Word) (s : State) : (completeMemory d s).pc = s.pc := by simp [completeMemory]
@[simp] theorem completeMemory_z (d : Word) (s : State) : (completeMemory d s).z = s.z := by simp [completeMemory]
@[simp] theorem completeMemory_n (d : Word) (s : State) : (completeMemory d s).n = s.n := by simp [completeMemory]
@[simp] theorem completeMemory_controlStalled (d : Word) (s : State) : (completeMemory d s).controlStalled = s.controlStalled := by simp [completeMemory]
@[simp] theorem completeMemory_dataStalled (d : Word) (s : State) : (completeMemory d s).dataStalled = s.dataStalled := by simp [completeMemory]
@[simp] theorem completeMemory_feHalted (d : Word) (s : State) : (completeMemory d s).feHalted = s.feHalted := by simp [completeMemory]
@[simp] theorem completeMemory_deHalted (d : Word) (s : State) : (completeMemory d s).deHalted = s.deHalted := by simp [completeMemory]
@[simp] theorem completeMemory_exHalted (d : Word) (s : State) : (completeMemory d s).exHalted = s.exHalted := by simp [completeMemory]
@[simp] theorem completeMemory_status (d : Word) (s : State) : (completeMemory d s).status = s.status := by simp [completeMemory]
@[simp] theorem completeMemory_cycleCount (d : Word) (s : State) : (completeMemory d s).cycleCount = s.cycleCount := by simp [completeMemory]
@[simp] theorem completeMemory_retiredCount (d : Word) (s : State) : (completeMemory d s).retiredCount = s.retiredCount := by simp [completeMemory]
@[simp] theorem completeMemory_ifde (d : Word) (s : State) : (completeMemory d s).ifde = s.ifde := by simp [completeMemory]
@[simp] theorem completeMemory_deex (d : Word) (s : State) : (completeMemory d s).deex = s.deex := by simp [completeMemory]
@[simp] theorem completeMemory_exmem (d : Word) (s : State) : (completeMemory d s).exmem = s.exmem := by simp [completeMemory]
@[simp] theorem completeMemory_exmemCkpt (d : Word) (s : State) : (completeMemory d s).exmemCkpt = s.exmemCkpt := by simp [completeMemory]
@[simp] theorem completeMemory_pred (d : Word) (s : State) : (completeMemory d s).pred = s.pred := by simp [completeMemory]
@[simp] theorem completeMemory_ic (d : Word) (s : State) : (completeMemory d s).ic = s.ic := by simp [completeMemory]
@[simp] theorem completeMemory_dc (d : Word) (s : State) : (completeMemory d s).dc = s.dc := by simp [completeMemory]
@[simp] theorem completeMemory_ts (d : Word) (s : State) : (completeMemory d s).ts = s.ts := by simp [completeMemory]
@[simp] theorem completeMemory_mem (d : Word) (s : State) : (completeMemory d s).mem = s.mem := by simp [completeMemory]

@[simp] theorem completeMemory_dcacheStalled (d : Word) (s : State) :
    (completeMemory d s).dcacheStalled = false := by simp [completeMemory]
@[simp] theorem completeMemory_memwb (d : Word) (s : State) : (completeMemory d s).memwb =
    memWbOf s.exmem (if s.exmem.mem.memRead then d else 0) := by simp [completeMemory]

@[simp] theorem propagateExHalt_regs (s : State) : (propagateExHalt s).regs = s.regs := by unfold propagateExHalt; split <;> simp
@[simp] theorem propagateExHalt_pc (s : State) : (propagateExHalt s).pc = s.pc := by unfold propagateExHalt; split <;> simp
@[simp] theorem propagateExHalt_z (s : State) : (propagateExHalt s).z = s.z := by unfold propagateExHalt; split <;> simp
@[simp] theorem propagateExHalt_n (s : State) : (propagateExHalt s).n = s.n := by unfold propagateExHalt; split <;> simp
@[simp] theorem propagateExHalt_controlStalled (s : State) : (propagateExHalt s).controlStalled = s.controlStalled := by unfold propagateExHalt; split <;> simp
@[simp] theorem propagateExHalt_dataStalled (s : State) : (propagateExHalt s).dataStalled = s.dataStalled := by unfold propagateExHalt; split <;> simp
@[simp] theorem propagateExHalt_dcacheStalled (s : State) : (propagateExHalt s).dcacheStalled = s.dcacheStalled := by unfold propagateExHalt; split <;> simp
@[simp] theorem propagateExHalt_feHalted (s : State) : (propagateExHalt s).feHalted = s.feHalted := by unfold propagateExHalt; split <;> simp
@[simp] theorem propagateExHalt_deHalted (s : State) : (propagateExHalt s).deHalted = s.deHalted := by unfold propagateExHalt; split <;> simp
@[simp] theorem propagateExHalt_memHalted (s : State) : (propagateExHalt s).memHalted = s.memHalted := by unfold propagateExHalt; split <;> simp
@[simp] theorem propagateExHalt_status (s : State) : (propagateExHalt s).status = s.status := by unfold propagateExHalt; split <;> simp
@[simp] theorem propagateExHalt_cycleCount (s : State) : (propagateExHalt s).cycleCount = s.cycleCount := by unfold propagateExHalt; split <;> simp
@[simp] theorem propagateExHalt_retiredCount (s : State) : (propagateExHalt s).retiredCount = s.retiredCount := by unfold propagateExHalt; split <;> simp
@[simp] theorem propagateExHalt_ifde (s : State) : (propagateExHalt s).ifde = s.ifde := by unfold propagateExHalt; split <;> simp
@[simp] theorem propagateExHalt_deex (s : State) : (propagateExHalt s).deex = s.deex := by unfold propagateExHalt; split <;> simp
@[simp] theorem propagateExHalt_exmem (s : State) : (propagateExHalt s).exmem = s.exmem := by unfold propagateExHalt; split <;> simp
@[simp] theorem propagateExHalt_memwb (s : State) : (propagateExHalt s).memwb = s.memwb := by unfold propagateExHalt; split <;> simp
@[simp] theorem propagateExHalt_exmemCkpt (s : State) : (propagateExHalt s).exmemCkpt = s.exmemCkpt := by unfold propagateExHalt; split <;> simp
@[simp] theorem propagateExHalt_pred (s : State) : (propagateExHalt s).pred = s.pred := by unfold propagateExHalt; split <;> simp
@[simp] theorem propagateExHalt_ic (s : State) : (propagateExHalt s).ic = s.ic := by unfold propagateExHalt; split <;> simp
@[simp] theorem propagateExHalt_dc (s : State) : (propagateExHalt s).dc = s.dc := by unfold propagateExHalt; split <;> simp
@[simp] theorem propagateExHalt_ts (s : State) : (propagateExHalt s).ts = s.ts := by unfold propagateExHalt; split <;> simp
@[simp] theorem propagateExHalt_mem (s : State) : (propagateExHalt s).mem = s.mem := by unfold propagateExHalt; split <;> simp

@[simp] theorem propagateDeHalt_regs (s : State) : (propagateDeHalt s).regs = s.regs := by unfold propagateDeHalt; split <;> simp
@[simp] theorem propagateDeHalt_pc (s : State) : (propagateDeHalt s).pc = s.pc := by unfold propagateDeHalt; split <;> simp
@[simp] theorem propagateDeHalt_z (s : State) : (propagateDeHalt s).z = s.z := by unfold propagateDeHalt; split <;> simp
@[simp] theorem propagateDeHalt_n (s : State) : (propagateDeHalt s).n = s.n := by unfold propagateDeHalt; split <;> simp
@[simp] theorem propagateDeHalt_controlStalled (s : State) : (propagateDeHalt s).controlStalled = s.controlStalled := by unfold propagateDeHalt; split <;> simp
@[simp] theorem propagateDeHalt_dataStalled (s : State) : (propagateDeHalt s).dataStalled = s.dataStalled := by unfold propagateDeHalt; split <;> simp
@[simp] theorem propagateDeHalt_dcacheStalled (s : State) : (propagateDeHalt s).dcacheStalled = s.dcacheStalled := by unfold propagateDeHalt; split <;> simp
@[simp] theorem propagateDeHalt_feHalted (s : State) : (propagateDeHalt s).feHalted = s.feHalted := by unfold propagateDeHalt; split <;> simp
@[simp] theorem propagateDeHalt_exHalted (s : State) : (propagateDeHalt s).exHalted = s.exHalted := by unfold propagateDeHalt; split <;> simp
@[simp] theorem propagateDeHalt_memHalted (s : State) : (propagateDeHalt s).memHalted = s.memHalted := by unfold propagateDeHalt; split <;> simp
@[simp] theorem propagateDeHalt_status (s : State) : (propagateDeHalt s).status = s.status := by unfold propagateDeHalt; split <;> simp
@[simp] theorem propagateDeHalt_cycleCount (s : State) : (propagateDeHalt s).cycleCount = s.cycleCount := by unfold propagateDeHalt; split <;> simp
@[simp] theorem propagateDeHalt_retiredCount (s : State) : (propagateDeHalt s).retiredCount = s.retiredCount := by unfold propagateDeHalt; split <;> simp
@[simp] theorem propagateDeHalt_ifde (s : State) : (propagateDeHalt s).ifde = s.ifde := by unfold propagateDeHalt; split <;> simp
@[simp] theorem propagateDeHalt_deex (s : State) : (propagateDeHalt s).deex = s.deex := by unfold propagateDeHalt; split <;> simp
@[simp] theorem propagateDeHalt_exmem (s : State) : (propagateDeHalt s).exmem = s.exmem := by unfold propagateDeHalt; split <;> simp
@[simp] theorem propagateDeHalt_memwb (s : State) : (propagateDeHalt s).memwb = s.memwb := by unfold propagateDeHalt; split <;> simp
@[simp] theorem propagateDeHalt_exmemCkpt (s : State) : (propagateDeHalt s).exmemCkpt = s.exmemCkpt := by unfold propagateDeHalt; split <;> simp
@[simp] theorem propagateDeHalt_pred (s : State) : (propagateDeHalt s).pred = s.pred := by unfold propagateDeHalt; split <;> simp
@[simp] theorem propagateDeHalt_ic (s : State) : (propagateDeHalt s).ic = s.ic := by unfold propagateDeHalt; split <;> simp
@[simp] theorem propagateDeHalt_dc (s : State) : (propagateDeHalt s).dc = s.dc := by unfold propagateDeHalt; split <;> simp
@[simp] theorem propagateDeHalt_ts (s : State) : (propagateDeHalt s).ts = s.ts := by unfold propagateDeHalt; split <;> simp
@[simp] theorem propagateDeHalt_mem (s : State) : (propagateDeHalt s).mem = s.mem := by unfold propagateDeHalt; split <;> simp

@[simp] theorem deliverWord_regs (h : Word32 → Bool) (w : Word32) (s : State) : (deliverWord h w s).regs = s.regs := rfl
@[simp] theorem deliverWord_z (h : Word32 → Bool) (w : Word32) (s : State) : (deliverWord h w s).z = s.z := rfl
@[simp] theorem deliverWord_n (h : Word32 → Bool) (w : Word32) (s : State) : (deliverWord h w s).n = s.n := rfl
@[simp] theorem deliverWord_controlStalled (h : Word32 → Bool) (w : Word32) (s : State) : (deliverWord h w s).controlStalled = s.controlStalled := rfl
@[simp] theorem deliverWord_dataStalled (h : Word32 → Bool) (w : Word32) (s : State) : (deliverWord h w s).dataStalled = s.dataStalled := rfl
@[simp] theorem deliverWord_dcacheStalled (h : Word32 → Bool) (w : Word32) (s : State) : (deliverWord h w s).dcacheStalled = s.dcacheStalled := rfl
@[simp] theorem deliverWord_deHalted (h : Word32 → Bool) (w : Word32) (s : State) : (deliverWord h w s).deHalted = s.deHalted := rfl
@[simp] theorem deliverWord_exHalted (h : Word32 → Bool) (w : Word32) (s : State) : (deliverWord h w s).exHalted = s.exHalted := rfl
@[simp] theorem deliverWord_memHalted (h : Word32 → Bool) (w : Word32) (s : State) : (deliverWord h w s).memHalted = s.memHalted := rfl
@[simp] theorem deliverWord_status (h : Word32 → Bool) (w : Word32) (s : State) : (deliverWord h w s).status = s.status := rfl
@[simp] theorem deliverWord_cycleCount (h : Word32 → Bool) (w : Word32) (s : State) : (deliverWord h w s).cycleCount = s.cycleCount := rfl
@[simp] theorem deliverWord_retiredCount (h : Word32 → Bool) (w : Word32) (s : State) : (deliverWord h w s).retiredCount = s.retiredCount := rfl
@[simp] theorem deliverWord_deex (h : Word32 → Bool) (w : Word32) (s : State) : (deliverWord h w s).deex = s.deex := rfl
@[simp] theorem deliverWord_exmem (h : Word32 → Bool) (w : Word32) (s : State) : (deliverWord h w s).exmem = s.exmem := rfl
@[simp] theorem deliverWord_memwb (h : Word32 → Bool) (w : Word32) (s : State) : (deliverWord h w s).memwb = s.memwb := rfl
@[simp] theorem deliverWord_exmemCkpt (h : Word32 → Bool) (w : Word32) (s : State) : (deliverWord h w s).exmemCkpt = s.exmemCkpt := rfl
@[simp] theorem deliverWord_pred (h : Word32 → Bool) (w : Word32) (s : State) : (deliverWord h w s).pred = s.pred := rfl
@[simp] theorem deliverWord_ic (h : Word32 → Bool) (w : Word32) (s : State) : (deliverWord h w s).ic = s.ic := rfl
@[simp] theorem deliverWord_dc (h : Word32 → Bool) (w : Word32) (s : State) : (deliverWord h w s).dc = s.dc := rfl
@[simp] theorem deliverWord_ts (h : Word32 → Bool) (w : Word32) (s : State) : (deliverWord h w s).ts = s.ts := rfl
@[simp] theorem deliverWord_mem (h : Word32 → Bool) (w : Word32) (s : State) : (deliverWord h w s).mem = s.mem := rfl

@[simp] theorem markFetchStall_regs (s : State) : (markFetchStall s).regs = s.regs := rfl
@[simp] theorem markFetchStall_pc (s : State) : (markFetchStall s).pc = s.pc := rfl
@[simp] theorem markFetchStall_z (s : State) : (markFetchStall s).z = s.z := rfl
@[simp] theorem markFetchStall_n (s : State) : (markFetchStall s).n = s.n := rfl
@[simp] theorem markFetchStall_controlStalled (s : State) : (markFetchStall s).controlStalled = s.controlStalled := rfl
@[simp] theorem markFetchStall_dataStalled (s : State) : (markFetchStall s).dataStalled = s.dataStalled := rfl
@[simp] theorem markFetchStall_dcacheStalled (s : State) : (markFetchStall s).dcacheStalled = s.dcacheStalled := rfl
@[simp] theorem markFetchStall_feHalted (s : State) : (markFetchStall s).feHalted = s.feHalted := rfl
@[simp] theorem markFetchStall_deHalted (s : State) : (markFetchStall s).deHalted = s.deHalted := rfl
@[simp] theorem markFetchStall_exHalted (s : State) : (markFetchStall s).exHalted = s.exHalted := rfl
@[simp] theorem markFetchStall_memHalted (s : State) : (markFetchStall s).memHalted = s.memHalted := rfl
@[simp] theorem markFetchStall_status (s : State) : (markFetchStall s).status = s.status := rfl
@[simp] theorem markFetchStall_cycleCount (s : State) : (markFetchStall s).cycleCount = s.cycleCount := rfl
@[simp] theorem markFetchStall_retiredCount (s : State) : (markFetchStall s).retiredCount = s.retiredCount := rfl
@[simp] theorem markFetchStall_deex (s : State) : (markFetchStall s).deex = s.deex := rfl
@[simp] theorem markFetchStall_exmem (s : State) : (markFetchStall s).exmem = s.exmem := rfl
@[simp] theorem markFetchStall_memwb (s : State) : (markFetchStall s).memwb = s.memwb := rfl
@[simp] theorem markFetchStall_exmemCkpt (s : State) : (markFetchStall s).exmemCkpt = s.exmemCkpt := rfl
@[simp] theorem markFetchStall_pred (s : State) : (markFetchStall s).pred = s.pred := rfl
@[simp] theorem markFetchStall_ic (s : State) : (markFetchStall s).ic = s.ic := rfl
@[simp] theorem markFetchStall_dc (s : State) : (markFetchStall s).dc = s.dc := rfl
@[simp] theorem markFetchStall_ts (s : State) : (markFetchStall s).ts = s.ts := rfl
@[simp] theorem markFetchStall_mem (s : State) : (markFetchStall s).mem = s.mem := rfl

@[simp] theorem cancelWrongFetch_regs (p : Params) (s : State) : (cancelWrongFetch p s).regs = s.regs := by unfold cancelWrongFetch; split <;> simp
@[simp] theorem cancelWrongFetch_pc (p : Params) (s : State) : (cancelWrongFetch p s).pc = s.pc := by unfold cancelWrongFetch; split <;> simp
@[simp] theorem cancelWrongFetch_z (p : Params) (s : State) : (cancelWrongFetch p s).z = s.z := by unfold cancelWrongFetch; split <;> simp
@[simp] theorem cancelWrongFetch_n (p : Params) (s : State) : (cancelWrongFetch p s).n = s.n := by unfold cancelWrongFetch; split <;> simp
@[simp] theorem cancelWrongFetch_controlStalled (p : Params) (s : State) : (cancelWrongFetch p s).controlStalled = s.controlStalled := by unfold cancelWrongFetch; split <;> simp
@[simp] theorem cancelWrongFetch_dataStalled (p : Params) (s : State) : (cancelWrongFetch p s).dataStalled = s.dataStalled := by unfold cancelWrongFetch; split <;> simp
@[simp] theorem cancelWrongFetch_dcacheStalled (p : Params) (s : State) : (cancelWrongFetch p s).dcacheStalled = s.dcacheStalled := by unfold cancelWrongFetch; split <;> simp
@[simp] theorem cancelWrongFetch_feHalted (p : Params) (s : State) : (cancelWrongFetch p s).feHalted = s.feHalted := by unfold cancelWrongFetch; split <;> simp
@[simp] theorem cancelWrongFetch_deHalted (p : Params) (s : State) : (cancelWrongFetch p s).deHalted = s.deHalted := by unfold cancelWrongFetch; split <;> simp
@[simp] theorem cancelWrongFetch_exHalted (p : Params) (s : State) : (cancelWrongFetch p s).exHalted = s.exHalted := by unfold cancelWrongFetch; split <;> simp
@[simp] theorem cancelWrongFetch_memHalted (p : Params) (s : State) : (cancelWrongFetch p s).memHalted = s.memHalted := by unfold cancelWrongFetch; split <;> simp
@[simp] theorem cancelWrongFetch_status (p : Params) (s : State) : (cancelWrongFetch p s).status = s.status := by unfold cancelWrongFetch; split <;> simp
@[simp] theorem cancelWrongFetch_cycleCount (p : Params) (s : State) : (cancelWrongFetch p s).cycleCount = s.cycleCount := by unfold cancelWrongFetch; split <;> simp
@[simp] theorem cancelWrongFetch_retiredCount (p : Params) (s : State) : (cancelWrongFetch p s).retiredCount = s.retiredCount := by unfold cancelWrongFetch; split <;> simp
@[simp] theorem cancelWrongFetch_ifde (p : Params) (s : State) : (cancelWrongFetch p s).ifde = s.ifde := by unfold cancelWrongFetch; split <;> simp
@[simp] theorem cancelWrongFetch_deex (p : Params) (s : State) : (cancelWrongFetch p s).deex = s.deex := by unfold cancelWrongFetch; split <;> simp
@[simp] theorem cancelWrongFetch_exmem (p : Params) (s : State) : (cancelWrongFetch p s).exmem = s.exmem := by unfold cancelWrongFetch; split <;> simp
@[simp] theorem cancelWrongFetch_memwb (p : Params) (s : State) : (cancelWrongFetch p s).memwb = s.memwb := by unfold cancelWrongFetch; split <;> simp
@[simp] theorem cancelWrongFetch_exmemCkpt (p : Params) (s : State) : (cancelWrongFetch p s).exmemCkpt = s.exmemCkpt := by unfold cancelWrongFetch; split <;> simp
@[simp] theorem cancelWrongFetch_pred (p : Params) (s : State) : (cancelWrongFetch p s).pred = s.pred := by unfold cancelWrongFetch; split <;> simp
@[simp] theorem cancelWrongFetch_dc (p : Params) (s : State) : (cancelWrongFetch p s).dc = s.dc := by unfold cancelWrongFetch; split <;> simp
@[simp] theorem cancelWrongFetch_ts (p : Params) (s : State) : (cancelWrongFetch p s).ts = s.ts := by unfold cancelWrongFetch; split <;> simp
@[simp] theorem cancelWrongFetch_mem (p : Params) (s : State) : (cancelWrongFetch p s).mem = s.mem := by unfold cancelWrongFetch; split <;> simp

@[simp] theorem cancelWrongFetch_ic_lines (p : Params) (s : State) :
    (cancelWrongFetch p s).ic.lines = s.ic.lines := by unfold cancelWrongFetch; split <;> simp

@[simp] theorem repair_regs (p : Params) (t : Word) (s : State) : (repair p t s).regs = s.regs := by simp [repair]
@[simp] theorem repair_z (p : Params) (t : Word) (s : State) : (repair p t s).z = s.z := by simp [repair]
@[simp] theorem repair_n (p : Params) (t : Word) (s : State) : (repair p t s).n = s.n := by simp [repair]
@[simp] theorem repair_dataStalled (p : Params) (t : Word) (s : State) : (repair p t s).dataStalled = s.dataStalled := by simp [repair]
@[simp] theorem repair_dcacheStalled (p : Params) (t : Word) (s : State) : (repair p t s).dcacheStalled = s.dcacheStalled := by simp [repair]
@[simp] theorem repair_deHalted (p : Params) (t : Word) (s : State) : (repair p t s).deHalted = s.deHalted := by simp [repair]
@[simp] theorem repair_exHalted (p : Params) (t : Word) (s : State) : (repair p t s).exHalted = s.exHalted := by simp [repair]
@[simp] theorem repair_memHalted (p : Params) (t : Word) (s : State) : (repair p t s).memHalted = s.memHalted := by simp [repair]
@[simp] theorem repair_status (p : Params) (t : Word) (s : State) : (repair p t s).status = s.status := by simp [repair]
@[simp] theorem repair_cycleCount (p : Params) (t : Word) (s : State) : (repair p t s).cycleCount = s.cycleCount := by simp [repair]
@[simp] theorem repair_retiredCount (p : Params) (t : Word) (s : State) : (repair p t s).retiredCount = s.retiredCount := by simp [repair]
@[simp] theorem repair_deex (p : Params) (t : Word) (s : State) : (repair p t s).deex = s.deex := by simp [repair]
@[simp] theorem repair_exmem (p : Params) (t : Word) (s : State) : (repair p t s).exmem = s.exmem := by simp [repair]
@[simp] theorem repair_memwb (p : Params) (t : Word) (s : State) : (repair p t s).memwb = s.memwb := by simp [repair]
@[simp] theorem repair_exmemCkpt (p : Params) (t : Word) (s : State) : (repair p t s).exmemCkpt = s.exmemCkpt := by simp [repair]
@[simp] theorem repair_pred (p : Params) (t : Word) (s : State) : (repair p t s).pred = s.pred := by simp [repair]
@[simp] theorem repair_dc (p : Params) (t : Word) (s : State) : (repair p t s).dc = s.dc := by simp [repair]
@[simp] theorem repair_ts (p : Params) (t : Word) (s : State) : (repair p t s).ts = s.ts := by simp [repair]
@[simp] theorem repair_mem (p : Params) (t : Word) (s : State) : (repair p t s).mem = s.mem := by simp [repair]

@[simp] theorem repair_pc (p : Params) (t : Word) (s : State) : (repair p t s).pc = t := rfl
@[simp] theorem repair_ifde (p : Params) (t : Word) (s : State) :
    (repair p t s).ifde = { s.ifde with flush := true } := by simp [repair]
@[simp] theorem repair_controlStalled (p : Params) (t : Word) (s : State) :
    (repair p t s).controlStalled = true := rfl
@[simp] theorem repair_feHalted (p : Params) (t : Word) (s : State) : (repair p t s).feHalted = false := rfl
@[simp] theorem repair_ic_lines (p : Params) (t : Word) (s : State) :
    (repair p t s).ic.lines = s.ic.lines := by simp [repair]

end Sys2Proof.Machine
end

