-- ==== Sys2Proof/Laws/Stages.lean ====
section
/-!
SUPPORT. What each cache operation and each stage leaves alone, field by field.
-/

namespace Sys2Proof.Machine

/-! ## Cache operations -/

@[simp] theorem cacheRead_regs (p : Params) (c : CacheId) (a : Word) (k : Nat) (s : State) :
    (cacheRead p c a k s).2.regs = s.regs := by
  unfold cacheRead; split
  · simp
  · split
    · rfl
    · split <;> simp
@[simp] theorem cacheRead_pc (p : Params) (c : CacheId) (a : Word) (k : Nat) (s : State) :
    (cacheRead p c a k s).2.pc = s.pc := by
  unfold cacheRead; split
  · simp
  · split
    · rfl
    · split <;> simp
@[simp] theorem cacheRead_z (p : Params) (c : CacheId) (a : Word) (k : Nat) (s : State) :
    (cacheRead p c a k s).2.z = s.z := by
  unfold cacheRead; split
  · simp
  · split
    · rfl
    · split <;> simp
@[simp] theorem cacheRead_n (p : Params) (c : CacheId) (a : Word) (k : Nat) (s : State) :
    (cacheRead p c a k s).2.n = s.n := by
  unfold cacheRead; split
  · simp
  · split
    · rfl
    · split <;> simp
@[simp] theorem cacheRead_controlStalled (p : Params) (c : CacheId) (a : Word) (k : Nat) (s : State) :
    (cacheRead p c a k s).2.controlStalled = s.controlStalled := by
  unfold cacheRead; split
  · simp
  · split
    · rfl
    · split <;> simp
@[simp] theorem cacheRead_dataStalled (p : Params) (c : CacheId) (a : Word) (k : Nat) (s : State) :
    (cacheRead p c a k s).2.dataStalled = s.dataStalled := by
  unfold cacheRead; split
  · simp
  · split
    · rfl
    · split <;> simp
@[simp] theorem cacheRead_dcacheStalled (p : Params) (c : CacheId) (a : Word) (k : Nat) (s : State) :
    (cacheRead p c a k s).2.dcacheStalled = s.dcacheStalled := by
  unfold cacheRead; split
  · simp
  · split
    · rfl
    · split <;> simp
@[simp] theorem cacheRead_feHalted (p : Params) (c : CacheId) (a : Word) (k : Nat) (s : State) :
    (cacheRead p c a k s).2.feHalted = s.feHalted := by
  unfold cacheRead; split
  · simp
  · split
    · rfl
    · split <;> simp
@[simp] theorem cacheRead_deHalted (p : Params) (c : CacheId) (a : Word) (k : Nat) (s : State) :
    (cacheRead p c a k s).2.deHalted = s.deHalted := by
  unfold cacheRead; split
  · simp
  · split
    · rfl
    · split <;> simp
@[simp] theorem cacheRead_exHalted (p : Params) (c : CacheId) (a : Word) (k : Nat) (s : State) :
    (cacheRead p c a k s).2.exHalted = s.exHalted := by
  unfold cacheRead; split
  · simp
  · split
    · rfl
    · split <;> simp
@[simp] theorem cacheRead_memHalted (p : Params) (c : CacheId) (a : Word) (k : Nat) (s : State) :
    (cacheRead p c a k s).2.memHalted = s.memHalted := by
  unfold cacheRead; split
  · simp
  · split
    · rfl
    · split <;> simp
@[simp] theorem cacheRead_cycleCount (p : Params) (c : CacheId) (a : Word) (k : Nat) (s : State) :
    (cacheRead p c a k s).2.cycleCount = s.cycleCount := by
  unfold cacheRead; split
  · simp
  · split
    · rfl
    · split <;> simp
@[simp] theorem cacheRead_retiredCount (p : Params) (c : CacheId) (a : Word) (k : Nat) (s : State) :
    (cacheRead p c a k s).2.retiredCount = s.retiredCount := by
  unfold cacheRead; split
  · simp
  · split
    · rfl
    · split <;> simp
@[simp] theorem cacheRead_ifde (p : Params) (c : CacheId) (a : Word) (k : Nat) (s : State) :
    (cacheRead p c a k s).2.ifde = s.ifde := by
  unfold cacheRead; split
  · simp
  · split
    · rfl
    · split <;> simp
@[simp] theorem cacheRead_deex (p : Params) (c : CacheId) (a : Word) (k : Nat) (s : State) :
    (cacheRead p c a k s).2.deex = s.deex := by
  unfold cacheRead; split
  · simp
  · split
    · rfl
    · split <;> simp
@[simp] theorem cacheRead_exmem (p : Params) (c : CacheId) (a : Word) (k : Nat) (s : State) :
    (cacheRead p c a k s).2.exmem = s.exmem := by
  unfold cacheRead; split
  · simp
  · split
    · rfl
    · split <;> simp
@[simp] theorem cacheRead_memwb (p : Params) (c : CacheId) (a : Word) (k : Nat) (s : State) :
    (cacheRead p c a k s).2.memwb = s.memwb := by
  unfold cacheRead; split
  · simp
  · split
    · rfl
    · split <;> simp
@[simp] theorem cacheRead_exmemCkpt (p : Params) (c : CacheId) (a : Word) (k : Nat) (s : State) :
    (cacheRead p c a k s).2.exmemCkpt = s.exmemCkpt := by
  unfold cacheRead; split
  · simp
  · split
    · rfl
    · split <;> simp
@[simp] theorem cacheRead_pred (p : Params) (c : CacheId) (a : Word) (k : Nat) (s : State) :
    (cacheRead p c a k s).2.pred = s.pred := by
  unfold cacheRead; split
  · simp
  · split
    · rfl
    · split <;> simp
@[simp] theorem cacheRead_mem (p : Params) (c : CacheId) (a : Word) (k : Nat) (s : State) :
    (cacheRead p c a k s).2.mem = s.mem := by
  unfold cacheRead; split
  · simp
  · split
    · rfl
    · split <;> simp

@[simp] theorem cacheRead_ic_dc (p : Params) (a : Word) (k : Nat) (s : State) :
    (cacheRead p .ic a k s).2.dc = s.dc := by
  unfold cacheRead; split
  · simp
  · split
    · rfl
    · split <;> simp
@[simp] theorem cacheRead_dc_ic (p : Params) (a : Word) (k : Nat) (s : State) :
    (cacheRead p .dc a k s).2.ic = s.ic := by
  unfold cacheRead; split
  · simp
  · split
    · rfl
    · split <;> simp

@[simp] theorem cacheWrite_regs (p : Params) (c : CacheId) (a : Word) (k : Nat) (v : Word) (s : State) :
    (cacheWrite p c a k v s).2.regs = s.regs := by
  unfold cacheWrite
  have h := cacheRead_regs p c a k s
  split
  · rename_i e; rw [e] at h; split <;> simpa using h
  · exact h
@[simp] theorem cacheWrite_pc (p : Params) (c : CacheId) (a : Word) (k : Nat) (v : Word) (s : State) :
    (cacheWrite p c a k v s).2.pc = s.pc := by
  unfold cacheWrite
  have h := cacheRead_pc p c a k s
  split
  · rename_i e; rw [e] at h; split <;> simpa using h
  · exact h
@[simp] theorem cacheWrite_z (p : Params) (c : CacheId) (a : Word) (k : Nat) (v : Word) (s : State) :
    (cacheWrite p c a k v s).2.z = s.z := by
  unfold cacheWrite
  have h := cacheRead_z p c a k s
  split
  · rename_i e; rw [e] at h; split <;> simpa using h
  · exact h
@[simp] theorem cacheWrite_n (p : Params) (c : CacheId) (a : Word) (k : Nat) (v : Word) (s : State) :
    (cacheWrite p c a k v s).2.n = s.n := by
  unfold cacheWrite
  have h := cacheRead_n p c a k s
  split
  · rename_i e; rw [e] at h; split <;> simpa using h
  · exact h
@[simp] theorem cacheWrite_controlStalled (p : Params) (c : CacheId) (a : Word) (k : Nat) (v : Word) (s : State) :
    (cacheWrite p c a k v s).2.controlStalled = s.controlStalled := by
  unfold cacheWrite
  have h := cacheRead_controlStalled p c a k s
  split
  · rename_i e; rw [e] at h; split <;> simpa using h
  · exact h
@[simp] theorem cacheWrite_dataStalled (p : Params) (c : CacheId) (a : Word) (k : Nat) (v : Word) (s : State) :
    (cacheWrite p c a k v s).2.dataStalled = s.dataStalled := by
  unfold cacheWrite
  have h := cacheRead_dataStalled p c a k s
  split
  · rename_i e; rw [e] at h; split <;> simpa using h
  · exact h
@[simp] theorem cacheWrite_dcacheStalled (p : Params) (c : CacheId) (a : Word) (k : Nat) (v : Word) (s : State) :
    (cacheWrite p c a k v s).2.dcacheStalled = s.dcacheStalled := by
  unfold cacheWrite
  have h := cacheRead_dcacheStalled p c a k s
  split
  · rename_i e; rw [e] at h; split <;> simpa using h
  · exact h
@[simp] theorem cacheWrite_feHalted (p : Params) (c : CacheId) (a : Word) (k : Nat) (v : Word) (s : State) :
    (cacheWrite p c a k v s).2.feHalted = s.feHalted := by
  unfold cacheWrite
  have h := cacheRead_feHalted p c a k s
  split
  · rename_i e; rw [e] at h; split <;> simpa using h
  · exact h
@[simp] theorem cacheWrite_deHalted (p : Params) (c : CacheId) (a : Word) (k : Nat) (v : Word) (s : State) :
    (cacheWrite p c a k v s).2.deHalted = s.deHalted := by
  unfold cacheWrite
  have h := cacheRead_deHalted p c a k s
  split
  · rename_i e; rw [e] at h; split <;> simpa using h
  · exact h
@[simp] theorem cacheWrite_exHalted (p : Params) (c : CacheId) (a : Word) (k : Nat) (v : Word) (s : State) :
    (cacheWrite p c a k v s).2.exHalted = s.exHalted := by
  unfold cacheWrite
  have h := cacheRead_exHalted p c a k s
  split
  · rename_i e; rw [e] at h; split <;> simpa using h
  · exact h
@[simp] theorem cacheWrite_memHalted (p : Params) (c : CacheId) (a : Word) (k : Nat) (v : Word) (s : State) :
    (cacheWrite p c a k v s).2.memHalted = s.memHalted := by
  unfold cacheWrite
  have h := cacheRead_memHalted p c a k s
  split
  · rename_i e; rw [e] at h; split <;> simpa using h
  · exact h
@[simp] theorem cacheWrite_cycleCount (p : Params) (c : CacheId) (a : Word) (k : Nat) (v : Word) (s : State) :
    (cacheWrite p c a k v s).2.cycleCount = s.cycleCount := by
  unfold cacheWrite
  have h := cacheRead_cycleCount p c a k s
  split
  · rename_i e; rw [e] at h; split <;> simpa using h
  · exact h
@[simp] theorem cacheWrite_retiredCount (p : Params) (c : CacheId) (a : Word) (k : Nat) (v : Word) (s : State) :
    (cacheWrite p c a k v s).2.retiredCount = s.retiredCount := by
  unfold cacheWrite
  have h := cacheRead_retiredCount p c a k s
  split
  · rename_i e; rw [e] at h; split <;> simpa using h
  · exact h
@[simp] theorem cacheWrite_ifde (p : Params) (c : CacheId) (a : Word) (k : Nat) (v : Word) (s : State) :
    (cacheWrite p c a k v s).2.ifde = s.ifde := by
  unfold cacheWrite
  have h := cacheRead_ifde p c a k s
  split
  · rename_i e; rw [e] at h; split <;> simpa using h
  · exact h
@[simp] theorem cacheWrite_deex (p : Params) (c : CacheId) (a : Word) (k : Nat) (v : Word) (s : State) :
    (cacheWrite p c a k v s).2.deex = s.deex := by
  unfold cacheWrite
  have h := cacheRead_deex p c a k s
  split
  · rename_i e; rw [e] at h; split <;> simpa using h
  · exact h
@[simp] theorem cacheWrite_exmem (p : Params) (c : CacheId) (a : Word) (k : Nat) (v : Word) (s : State) :
    (cacheWrite p c a k v s).2.exmem = s.exmem := by
  unfold cacheWrite
  have h := cacheRead_exmem p c a k s
  split
  · rename_i e; rw [e] at h; split <;> simpa using h
  · exact h
@[simp] theorem cacheWrite_memwb (p : Params) (c : CacheId) (a : Word) (k : Nat) (v : Word) (s : State) :
    (cacheWrite p c a k v s).2.memwb = s.memwb := by
  unfold cacheWrite
  have h := cacheRead_memwb p c a k s
  split
  · rename_i e; rw [e] at h; split <;> simpa using h
  · exact h
@[simp] theorem cacheWrite_exmemCkpt (p : Params) (c : CacheId) (a : Word) (k : Nat) (v : Word) (s : State) :
    (cacheWrite p c a k v s).2.exmemCkpt = s.exmemCkpt := by
  unfold cacheWrite
  have h := cacheRead_exmemCkpt p c a k s
  split
  · rename_i e; rw [e] at h; split <;> simpa using h
  · exact h
@[simp] theorem cacheWrite_pred (p : Params) (c : CacheId) (a : Word) (k : Nat) (v : Word) (s : State) :
    (cacheWrite p c a k v s).2.pred = s.pred := by
  unfold cacheWrite
  have h := cacheRead_pred p c a k s
  split
  · rename_i e; rw [e] at h; split <;> simpa using h
  · exact h
@[simp] theorem cacheWrite_dc_ic (p : Params) (a : Word) (k : Nat) (v : Word) (s : State) :
    (cacheWrite p .dc a k v s).2.ic = s.ic := by
  unfold cacheWrite
  have h := cacheRead_dc_ic p a k s
  split
  · rename_i e; rw [e] at h; split <;> simpa using h
  · exact h

@[simp] theorem tickQueries_regs (p : Params) (c : CacheId) (kept qs : List Query) (s : State) :
    (tickQueries p c kept qs s).regs = s.regs := by
  induction qs generalizing kept s with
  | nil => simp [tickQueries]
  | cons q rest ih => unfold tickQueries; split_ifs <;> simp [ih]
@[simp] theorem cacheTick_regs (p : Params) (c : CacheId) (s : State) :
    (cacheTick p c s).regs = s.regs := tickQueries_regs p c [] _ s
@[simp] theorem tickQueries_pc (p : Params) (c : CacheId) (kept qs : List Query) (s : State) :
    (tickQueries p c kept qs s).pc = s.pc := by
  induction qs generalizing kept s with
  | nil => simp [tickQueries]
  | cons q rest ih => unfold tickQueries; split_ifs <;> simp [ih]
@[simp] theorem cacheTick_pc (p : Params) (c : CacheId) (s : State) :
    (cacheTick p c s).pc = s.pc := tickQueries_pc p c [] _ s
@[simp] theorem tickQueries_z (p : Params) (c : CacheId) (kept qs : List Query) (s : State) :
    (tickQueries p c kept qs s).z = s.z := by
  induction qs generalizing kept s with
  | nil => simp [tickQueries]
  | cons q rest ih => unfold tickQueries; split_ifs <;> simp [ih]
@[simp] theorem cacheTick_z (p : Params) (c : CacheId) (s : State) :
    (cacheTick p c s).z = s.z := tickQueries_z p c [] _ s
@[simp] theorem tickQueries_n (p : Params) (c : CacheId) (kept qs : List Query) (s : State) :
    (tickQueries p c kept qs s).n = s.n := by
  induction qs generalizing kept s with
  | nil => simp [tickQueries]
  | cons q rest ih => unfold tickQueries; split_ifs <;> simp [ih]
@[simp] theorem cacheTick_n (p : Params) (c : CacheId) (s : State) :
    (cacheTick p c s).n = s.n := tickQueries_n p c [] _ s
@[simp] theorem tickQueries_controlStalled (p : Params) (c : CacheId) (kept qs : List Query) (s : State) :
    (tickQueries p c kept qs s).controlStalled = s.controlStalled := by
  induction qs generalizing kept s with
  | nil => simp [tickQueries]
  | cons q rest ih => unfold tickQueries; split_ifs <;> simp [ih]
@[simp] theorem cacheTick_controlStalled (p : Params) (c : CacheId) (s : State) :
    (cacheTick p c s).controlStalled = s.controlStalled := tickQueries_controlStalled p c [] _ s
@[simp] theorem tickQueries_dataStalled (p : Params) (c : CacheId) (kept qs : List Query) (s : State) :
    (tickQueries p c kept qs s).dataStalled = s.dataStalled := by
  induction qs generalizing kept s with
  | nil => simp [tickQueries]
  | cons q rest ih => unfold tickQueries; split_ifs <;> simp [ih]
@[simp] theorem cacheTick_dataStalled (p : Params) (c : CacheId) (s : State) :
    (cacheTick p c s).dataStalled = s.dataStalled := tickQueries_dataStalled p c [] _ s
@[simp] theorem tickQueries_dcacheStalled (p : Params) (c : CacheId) (kept qs : List Query) (s : State) :
    (tickQueries p c kept qs s).dcacheStalled = s.dcacheStalled := by
  induction qs generalizing kept s with
  | nil => simp [tickQueries]
  | cons q rest ih => unfold tickQueries; split_ifs <;> simp [ih]
@[simp] theorem cacheTick_dcacheStalled (p : Params) (c : CacheId) (s : State) :
    (cacheTick p c s).dcacheStalled = s.dcacheStalled := tickQueries_dcacheStalled p c [] _ s
@[simp] theorem tickQueries_feHalted (p : Params) (c : CacheId) (kept qs : List Query) (s : State) :
    (tickQueries p c kept qs s).feHalted = s.feHalted := by
  induction qs generalizing kept s with
  | nil => simp [tickQueries]
  | cons q rest ih => unfold tickQueries; split_ifs <;> simp [ih]
@[simp] theorem cacheTick_feHalted (p : Params) (c : CacheId) (s : State) :
    (cacheTick p c s).feHalted = s.feHalted := tickQueries_feHalted p c [] _ s
@[simp] theorem tickQueries_deHalted (p : Params) (c : CacheId) (kept qs : List Query) (s : State) :
    (tickQueries p c kept qs s).deHalted = s.deHalted := by
  induction qs generalizing kept s with
  | nil => simp [tickQueries]
  | cons q rest ih => unfold tickQueries; split_ifs <;> simp [ih]
@[simp] theorem cacheTick_deHalted (p : Params) (c : CacheId) (s : State) :
    (cacheTick p c s).deHalted = s.deHalted := tickQueries_deHalted p c [] _ s
@[simp] theorem tickQueries_exHalted (p : Params) (c : CacheId) (kept qs : List Query) (s : State) :
    (tickQueries p c kept qs s).exHalted = s.exHalted := by
  induction qs generalizing kept s with
  | nil => simp [tickQueries]
  | cons q rest ih => unfold tickQueries; split_ifs <;> simp [ih]
@[simp] theorem cacheTick_exHalted (p : Params) (c : CacheId) (s : State) :
    (cacheTick p c s).exHalted = s.exHalted := tickQueries_exHalted p c [] _ s
@[simp] theorem tickQueries_memHalted (p : Params) (c : CacheId) (kept qs : List Query) (s : State) :
    (tickQueries p c kept qs s).memHalted = s.memHalted := by
  induction qs generalizing kept s with
  | nil => simp [tickQueries]
  | cons q rest ih => unfold tickQueries; split_ifs <;> simp [ih]
@[simp] theorem cacheTick_memHalted (p : Params) (c : CacheId) (s : State) :
    (cacheTick p c s).memHalted = s.memHalted := tickQueries_memHalted p c [] _ s
@[simp] theorem tickQueries_cycleCount (p : Params) (c : CacheId) (kept qs : List Query) (s : State) :
    (tickQueries p c kept qs s).cycleCount = s.cycleCount := by
  induction qs generalizing kept s with
  | nil => simp [tickQueries]
  | cons q rest ih => unfold tickQueries; split_ifs <;> simp [ih]
@[simp] theorem cacheTick_cycleCount (p : Params) (c : CacheId) (s : State) :
    (cacheTick p c s).cycleCount = s.cycleCount := tickQueries_cycleCount p c [] _ s
@[simp] theorem tickQueries_retiredCount (p : Params) (c : CacheId) (kept qs : List Query) (s : State) :
    (tickQueries p c kept qs s).retiredCount = s.retiredCount := by
  induction qs generalizing kept s with
  | nil => simp [tickQueries]
  | cons q rest ih => unfold tickQueries; split_ifs <;> simp [ih]
@[simp] theorem cacheTick_retiredCount (p : Params) (c : CacheId) (s : State) :
    (cacheTick p c s).retiredCount = s.retiredCount := tickQueries_retiredCount p c [] _ s
@[simp] theorem tickQueries_ifde (p : Params) (c : CacheId) (kept qs : List Query) (s : State) :
    (tickQueries p c kept qs s).ifde = s.ifde := by
  induction qs generalizing kept s with
  | nil => simp [tickQueries]
  | cons q rest ih => unfold tickQueries; split_ifs <;> simp [ih]
@[simp] theorem cacheTick_ifde (p : Params) (c : CacheId) (s : State) :
    (cacheTick p c s).ifde = s.ifde := tickQueries_ifde p c [] _ s
@[simp] theorem tickQueries_deex (p : Params) (c : CacheId) (kept qs : List Query) (s : State) :
    (tickQueries p c kept qs s).deex = s.deex := by
  induction qs generalizing kept s with
  | nil => simp [tickQueries]
  | cons q rest ih => unfold tickQueries; split_ifs <;> simp [ih]
@[simp] theorem cacheTick_deex (p : Params) (c : CacheId) (s : State) :
    (cacheTick p c s).deex = s.deex := tickQueries_deex p c [] _ s
@[simp] theorem tickQueries_exmem (p : Params) (c : CacheId) (kept qs : List Query) (s : State) :
    (tickQueries p c kept qs s).exmem = s.exmem := by
  induction qs generalizing kept s with
  | nil => simp [tickQueries]
  | cons q rest ih => unfold tickQueries; split_ifs <;> simp [ih]
@[simp] theorem cacheTick_exmem (p : Params) (c : CacheId) (s : State) :
    (cacheTick p c s).exmem = s.exmem := tickQueries_exmem p c [] _ s
@[simp] theorem tickQueries_memwb (p : Params) (c : CacheId) (kept qs : List Query) (s : State) :
    (tickQueries p c kept qs s).memwb = s.memwb := by
  induction qs generalizing kept s with
  | nil => simp [tickQueries]
  | cons q rest ih => unfold tickQueries; split_ifs <;> simp [ih]
@[simp] theorem cacheTick_memwb (p : Params) (c : CacheId) (s : State) :
    (cacheTick p c s).memwb = s.memwb := tickQueries_memwb p c [] _ s
@[simp] theorem tickQueries_exmemCkpt (p : Params) (c : CacheId) (kept qs : List Query) (s : State) :
    (tickQueries p c kept qs s).exmemCkpt = s.exmemCkpt := by
  induction qs generalizing kept s with
  | nil => simp [tickQueries]
  | cons q rest ih => unfold tickQueries; split_ifs <;> simp [ih]
@[simp] theorem cacheTick_exmemCkpt (p : Params) (c : CacheId) (s : State) :
    (cacheTick p c s).exmemCkpt = s.exmemCkpt := tickQueries_exmemCkpt p c [] _ s
@[simp] theorem tickQueries_pred (p : Params) (c : CacheId) (kept qs : List Query) (s : State) :
    (tickQueries p c kept qs s).pred = s.pred := by
  induction qs generalizing kept s with
  | nil => simp [tickQueries]
  | cons q rest ih => unfold tickQueries; split_ifs <;> simp [ih]
@[simp] theorem cacheTick_pred (p : Params) (c : CacheId) (s : State) :
    (cacheTick p c s).pred = s.pred := tickQueries_pred p c [] _ s
@[simp] theorem tickQueries_mem (p : Params) (c : CacheId) (kept qs : List Query) (s : State) :
    (tickQueries p c kept qs s).mem = s.mem := by
  induction qs generalizing kept s with
  | nil => simp [tickQueries]
  | cons q rest ih => unfold tickQueries; split_ifs <;> simp [ih]
@[simp] theorem cacheTick_mem (p : Params) (c : CacheId) (s : State) :
    (cacheTick p c s).mem = s.mem := tickQueries_mem p c [] _ s
@[simp] theorem tickQueries_ic_dc (p : Params) (kept qs : List Query) (s : State) :
    (tickQueries p .ic kept qs s).dc = s.dc := by
  induction qs generalizing kept s with
  | nil => simp [tickQueries]
  | cons q rest ih => unfold tickQueries; split_ifs <;> simp [ih]
@[simp] theorem cacheTick_ic_dc (p : Params) (s : State) :
    (cacheTick p .ic s).dc = s.dc := tickQueries_ic_dc p [] _ s
@[simp] theorem tickQueries_dc_ic (p : Params) (kept qs : List Query) (s : State) :
    (tickQueries p .dc kept qs s).ic = s.ic := by
  induction qs generalizing kept s with
  | nil => simp [tickQueries]
  | cons q rest ih => unfold tickQueries; split_ifs <;> simp [ih]
@[simp] theorem cacheTick_dc_ic (p : Params) (s : State) :
    (cacheTick p .dc s).ic = s.ic := tickQueries_dc_ic p [] _ s

/-! ## Stages -/

@[simp] theorem hazardUnit_regs (s : State) : (hazardUnit s).regs = s.regs := by unfold hazardUnit; split <;> simp
@[simp] theorem hazardUnit_pc (s : State) : (hazardUnit s).pc = s.pc := by unfold hazardUnit; split <;> simp
@[simp] theorem hazardUnit_z (s : State) : (hazardUnit s).z = s.z := by unfold hazardUnit; split <;> simp
@[simp] theorem hazardUnit_n (s : State) : (hazardUnit s).n = s.n := by unfold hazardUnit; split <;> simp
@[simp] theorem hazardUnit_controlStalled (s : State) : (hazardUnit s).controlStalled = s.controlStalled := by unfold hazardUnit; split <;> simp
@[simp] theorem hazardUnit_dcacheStalled (s : State) : (hazardUnit s).dcacheStalled = s.dcacheStalled := by unfold hazardUnit; split <;> simp
@[simp] theorem hazardUnit_feHalted (s : State) : (hazardUnit s).feHalted = s.feHalted := by unfold hazardUnit; split <;> simp
@[simp] theorem hazardUnit_deHalted (s : State) : (hazardUnit s).deHalted = s.deHalted := by unfold hazardUnit; split <;> simp
@[simp] theorem hazardUnit_exHalted (s : State) : (hazardUnit s).exHalted = s.exHalted := by unfold hazardUnit; split <;> simp
@[simp] theorem hazardUnit_memHalted (s : State) : (hazardUnit s).memHalted = s.memHalted := by unfold hazardUnit; split <;> simp
@[simp] theorem hazardUnit_status (s : State) : (hazardUnit s).status = s.status := by unfold hazardUnit; split <;> simp
@[simp] theorem hazardUnit_cycleCount (s : State) : (hazardUnit s).cycleCount = s.cycleCount := by unfold hazardUnit; split <;> simp
@[simp] theorem hazardUnit_retiredCount (s : State) : (hazardUnit s).retiredCount = s.retiredCount := by unfold hazardUnit; split <;> simp
@[simp] theorem hazardUnit_ifde (s : State) : (hazardUnit s).ifde = s.ifde := by unfold hazardUnit; split <;> simp
@[simp] theorem hazardUnit_exmem (s : State) : (hazardUnit s).exmem = s.exmem := by unfold hazardUnit; split <;> simp
@[simp] theorem hazardUnit_memwb (s : State) : (hazardUnit s).memwb = s.memwb := by unfold hazardUnit; split <;> simp
@[simp] theorem hazardUnit_exmemCkpt (s : State) : (hazardUnit s).exmemCkpt = s.exmemCkpt := by unfold hazardUnit; split <;> simp
@[simp] theorem hazardUnit_pred (s : State) : (hazardUnit s).pred = s.pred := by unfold hazardUnit; split <;> simp
@[simp] theorem hazardUnit_ic (s : State) : (hazardUnit s).ic = s.ic := by unfold hazardUnit; split <;> simp
@[simp] theorem hazardUnit_dc (s : State) : (hazardUnit s).dc = s.dc := by unfold hazardUnit; split <;> simp
@[simp] theorem hazardUnit_ts (s : State) : (hazardUnit s).ts = s.ts := by unfold hazardUnit; split <;> simp
@[simp] theorem hazardUnit_mem (s : State) : (hazardUnit s).mem = s.mem := by unfold hazardUnit; split <;> simp

@[simp] theorem writebackStage_pc (s : State) : (writebackStage s).pc = s.pc := by unfold writebackStage; split_ifs <;> simp
@[simp] theorem writebackStage_controlStalled (s : State) : (writebackStage s).controlStalled = s.controlStalled := by unfold writebackStage; split_ifs <;> simp
@[simp] theorem writebackStage_dataStalled (s : State) : (writebackStage s).dataStalled = s.dataStalled := by unfold writebackStage; split_ifs <;> simp
@[simp] theorem writebackStage_dcacheStalled (s : State) : (writebackStage s).dcacheStalled = s.dcacheStalled := by unfold writebackStage; split_ifs <;> simp
@[simp] theorem writebackStage_feHalted (s : State) : (writebackStage s).feHalted = s.feHalted := by unfold writebackStage; split_ifs <;> simp
@[simp] theorem writebackStage_deHalted (s : State) : (writebackStage s).deHalted = s.deHalted := by unfold writebackStage; split_ifs <;> simp
@[simp] theorem writebackStage_exHalted (s : State) : (writebackStage s).exHalted = s.exHalted := by unfold writebackStage; split_ifs <;> simp
@[simp] theorem writebackStage_memHalted (s : State) : (writebackStage s).memHalted = s.memHalted := by unfold writebackStage; split_ifs <;> simp
@[simp] theorem writebackStage_cycleCount (s : State) : (writebackStage s).cycleCount = s.cycleCount := by unfold writebackStage; split_ifs <;> simp
@[simp] theorem writebackStage_ifde (s : State) : (writebackStage s).ifde = s.ifde := by unfold writebackStage; split_ifs <;> simp
@[simp] theorem writebackStage_deex (s : State) : (writebackStage s).deex = s.deex := by unfold writebackStage; split_ifs <;> simp
@[simp] theorem writebackStage_exmem (s : State) : (writebackStage s).exmem = s.exmem := by unfold writebackStage; split_ifs <;> simp
@[simp] theorem writebackStage_memwb (s : State) : (writebackStage s).memwb = s.memwb := by unfold writebackStage; split_ifs <;> simp
@[simp] theorem writebackStage_exmemCkpt (s : State) : (writebackStage s).exmemCkpt = s.exmemCkpt := by unfold writebackStage; split_ifs <;> simp
@[simp] theorem writebackStage_pred (s : State) : (writebackStage s).pred = s.pred := by unfold writebackStage; split_ifs <;> simp
@[simp] theorem writebackStage_ic (s : State) : (writebackStage s).ic = s.ic := by unfold writebackStage; split_ifs <;> simp
@[simp] theorem writebackStage_dc (s : State) : (writebackStage s).dc = s.dc := by unfold writebackStage; split_ifs <;> simp
@[simp] theorem writebackStage_ts (s : State) : (writebackStage s).ts = s.ts := by unfold writebackStage; split_ifs <;> simp
@[simp] theorem writebackStage_mem (s : State) : (writebackStage s).mem = s.mem := by unfold writebackStage; split_ifs <;> simp

@[simp] theorem dataAccess_regs (p : Params) (s : State) : (dataAccess p s).2.regs = s.regs := by
  unfold dataAccess; split <;> simp
@[simp] theorem dataAccess_pc (p : Params) (s : State) : (dataAccess p s).2.pc = s.pc := by
  unfold dataAccess; split <;> simp
@[simp] theorem dataAccess_z (p : Params) (s : State) : (dataAccess p s).2.z = s.z := by
  unfold dataAccess; split <;> simp
@[simp] theorem dataAccess_n (p : Params) (s : State) : (dataAccess p s).2.n = s.n := by
  unfold dataAccess; split <;> simp
@[simp] theorem dataAccess_controlStalled (p : Params) (s : State) : (dataAccess p s).2.controlStalled = s.controlStalled := by
  unfold dataAccess; split <;> simp
@[simp] theorem dataAccess_dataStalled (p : Params) (s : State) : (dataAccess p s).2.dataStalled = s.dataStalled := by
  unfold dataAccess; split <;> simp
@[simp] theorem dataAccess_dcacheStalled (p : Params) (s : State) : (dataAccess p s).2.dcacheStalled = s.dcacheStalled := by
  unfold dataAccess; split <;> simp
@[simp] theorem dataAccess_feHalted (p : Params) (s : State) : (dataAccess p s).2.feHalted = s.feHalted := by
  unfold dataAccess; split <;> simp
@[simp] theorem dataAccess_deHalted (p : Params) (s : State) : (dataAccess p s).2.deHalted = s.deHalted := by
  unfold dataAccess; split <;> simp
@[simp] theorem dataAccess_exHalted (p : Params) (s : State) : (dataAccess p s).2.exHalted = s.exHalted := by
  unfold dataAccess; split <;> simp
@[simp] theorem dataAccess_memHalted (p : Params) (s : State) : (dataAccess p s).2.memHalted = s.memHalted := by
  unfold dataAccess; split <;> simp
@[simp] theorem dataAccess_cycleCount (p : Params) (s : State) : (dataAccess p s).2.cycleCount = s.cycleCount := by
  unfold dataAccess; split <;> simp
@[simp] theorem dataAccess_retiredCount (p : Params) (s : State) : (dataAccess p s).2.retiredCount = s.retiredCount := by
  unfold dataAccess; split <;> simp
@[simp] theorem dataAccess_ifde (p : Params) (s : State) : (dataAccess p s).2.ifde = s.ifde := by
  unfold dataAccess; split <;> simp
@[simp] theorem dataAccess_deex (p : Params) (s : State) : (dataAccess p s).2.deex = s.deex := by
  unfold dataAccess; split <;> simp
@[simp] theorem dataAccess_exmem (p : Params) (s : State) : (dataAccess p s).2.exmem = s.exmem := by
  unfold dataAccess; split <;> simp
@[simp] theorem dataAccess_memwb (p : Params) (s : State) : (dataAccess p s).2.memwb = s.memwb := by
  unfold dataAccess; split <;> simp
@[simp] theorem dataAccess_exmemCkpt (p : Params) (s : State) : (dataAccess p s).2.exmemCkpt = s.exmemCkpt := by
  unfold dataAccess; split <;> simp
@[simp] theorem dataAccess_pred (p : Params) (s : State) : (dataAccess p s).2.pred = s.pred := by
  unfold dataAccess; split <;> simp
@[simp] theorem dataAccess_ic (p : Params) (s : State) : (dataAccess p s).2.ic = s.ic := by
  unfold dataAccess; split <;> simp

@[simp] theorem memoryMove_regs (p : Params) (s : State) : (memoryMove p s).regs = s.regs := by
  unfold memoryMove
  split
  · simp
  · have h := dataAccess_regs p s
    split <;> (rename_i e; rw [e] at h; simpa using h)
@[simp] theorem memoryMove_pc (p : Params) (s : State) : (memoryMove p s).pc = s.pc := by
  unfold memoryMove
  split
  · simp
  · have h := dataAccess_pc p s
    split <;> (rename_i e; rw [e] at h; simpa using h)
@[simp] theorem memoryMove_z (p : Params) (s : State) : (memoryMove p s).z = s.z := by
  unfold memoryMove
  split
  · simp
  · have h := dataAccess_z p s
    split <;> (rename_i e; rw [e] at h; simpa using h)
@[simp] theorem memoryMove_n (p : Params) (s : State) : (memoryMove p s).n = s.n := by
  unfold memoryMove
  split
  · simp
  · have h := dataAccess_n p s
    split <;> (rename_i e; rw [e] at h; simpa using h)
@[simp] theorem memoryMove_controlStalled (p : Params) (s : State) : (memoryMove p s).controlStalled = s.controlStalled := by
  unfold memoryMove
  split
  · simp
  · have h := dataAccess_controlStalled p s
    split <;> (rename_i e; rw [e] at h; simpa using h)
@[simp] theorem memoryMove_dataStalled (p : Params) (s : State) : (memoryMove p s).dataStalled = s.dataStalled := by
  unfold memoryMove
  split
  · simp
  · have h := dataAccess_dataStalled p s
    split <;> (rename_i e; rw [e] at h; simpa using h)
@[simp] theorem memoryMove_feHalted (p : Params) (s : State) : (memoryMove p s).feHalted = s.feHalted := by
  unfold memoryMove
  split
  · simp
  · have h := dataAccess_feHalted p s
    split <;> (rename_i e; rw [e] at h; simpa using h)
@[simp] theorem memoryMove_deHalted (p : Params) (s : State) : (memoryMove p s).deHalted = s.deHalted := by
  unfold memoryMove
  split
  · simp
  · have h := dataAccess_deHalted p s
    split <;> (rename_i e; rw [e] at h; simpa using h)
@[simp] theorem memoryMove_exHalted (p : Params) (s : State) : (memoryMove p s).exHalted = s.exHalted := by
  unfold memoryMove
  split
  · simp
  · have h := dataAccess_exHalted p s
    split <;> (rename_i e; rw [e] at h; simpa using h)
@[simp] theorem memoryMove_cycleCount (p : Params) (s : State) : (memoryMove p s).cycleCount = s.cycleCount := by
  unfold memoryMove
  split
  · simp
  · have h := dataAccess_cycleCount p s
    split <;> (rename_i e; rw [e] at h; simpa using h)
@[simp] theorem memoryMove_retiredCount (p : Params) (s : State) : (memoryMove p s).retiredCount = s.retiredCount := by
  unfold memoryMove
  split
  · simp
  · have h := dataAccess_retiredCount p s
    split <;> (rename_i e; rw [e] at h; simpa using h)
@[simp] theorem memoryMove_ifde (p : Params) (s : State) : (memoryMove p s).ifde = s.ifde := by
  unfold memoryMove
  split
  · simp
  · have h := dataAccess_ifde p s
    split <;> (rename_i e; rw [e] at h; simpa using h)
@[simp] theorem memoryMove_deex (p : Params) (s : State) : (memoryMove p s).deex = s.deex := by
  unfold memoryMove
  split
  · simp
  · have h := dataAccess_deex p s
    split <;> (rename_i e; rw [e] at h; simpa using h)
@[simp] theorem memoryMove_exmem (p : Params) (s : State) : (memoryMove p s).exmem = s.exmem := by
  unfold memoryMove
  split
  · simp
  · have h := dataAccess_exmem p s
    split <;> (rename_i e; rw [e] at h; simpa using h)
@[simp] theorem memoryMove_pred (p : Params) (s : State) : (memoryMove p s).pred = s.pred := by
  unfold memoryMove
  split
  · simp
  · have h := dataAccess_pred p s
    split <;> (rename_i e; rw [e] at h; simpa using h)
@[simp] theorem memoryMove_ic (p : Params) (s : State) : (memoryMove p s).ic = s.ic := by
  unfold memoryMove
  split
  · simp
  · have h := dataAccess_ic p s
    split <;> (rename_i e; rw [e] at h; simpa using h)

@[simp] theorem memoryStage_regs (p : Params) (s : State) : (memoryStage p s).regs = s.regs := by unfold memoryStage; split_ifs <;> simp
@[simp] theorem memoryStage_pc (p : Params) (s : State) : (memoryStage p s).pc = s.pc := by unfold memoryStage; split_ifs <;> simp
@[simp] theorem memoryStage_z (p : Params) (s : State) : (memoryStage p s).z = s.z := by unfold memoryStage; split_ifs <;> simp
@[simp] theorem memoryStage_n (p : Params) (s : State) : (memoryStage p s).n = s.n := by unfold memoryStage; split_ifs <;> simp
@[simp] theorem memoryStage_controlStalled (p : Params) (s : State) : (memoryStage p s).controlStalled = s.controlStalled := by unfold memoryStage; split_ifs <;> simp
@[simp] theorem memoryStage_dataStalled (p : Params) (s : State) : (memoryStage p s).dataStalled = s.dataStalled := by unfold memoryStage; split_ifs <;> simp
@[simp] theorem memoryStage_feHalted (p : Params) (s : State) : (memoryStage p s).feHalted = s.feHalted := by unfold memoryStage; split_ifs <;> simp
@[simp] theorem memoryStage_deHalted (p : Params) (s : State) : (memoryStage p s).deHalted = s.deHalted := by unfold memoryStage; split_ifs <;> simp
@[simp] theorem memoryStage_exHalted (p : Params) (s : State) : (memoryStage p s).exHalted = s.exHalted := by unfold memoryStage; split_ifs <;> simp
@[simp] theorem memoryStage_cycleCount (p : Params) (s : State) : (memoryStage p s).cycleCount = s.cycleCount := by unfold memoryStage; split_ifs <;> simp
@[simp] theorem memoryStage_retiredCount (p : Params) (s : State) : (memoryStage p s).retiredCount = s.retiredCount := by unfold memoryStage; split_ifs <;> simp
@[simp] theorem memoryStage_ifde (p : Params) (s : State) : (memoryStage p s).ifde = s.ifde := by unfold memoryStage; split_ifs <;> simp
@[simp] theorem memoryStage_deex (p : Params) (s : State) : (memoryStage p s).deex = s.deex := by unfold memoryStage; split_ifs <;> simp
@[simp] theorem memoryStage_pred (p : Params) (s : State) : (memoryStage p s).pred = s.pred := by unfold memoryStage; split_ifs <;> simp
@[simp] theorem memoryStage_ic (p : Params) (s : State) : (memoryStage p s).ic = s.ic := by unfold memoryStage; split_ifs <;> simp

@[simp] theorem checkPrediction_regs (p : Params) (s : State) : (checkPrediction p s).regs = s.regs := by unfold checkPrediction; split <;> simp
@[simp] theorem checkPrediction_z (p : Params) (s : State) : (checkPrediction p s).z = s.z := by unfold checkPrediction; split <;> simp
@[simp] theorem checkPrediction_n (p : Params) (s : State) : (checkPrediction p s).n = s.n := by unfold checkPrediction; split <;> simp
@[simp] theorem checkPrediction_dataStalled (p : Params) (s : State) : (checkPrediction p s).dataStalled = s.dataStalled := by unfold checkPrediction; split <;> simp
@[simp] theorem checkPrediction_dcacheStalled (p : Params) (s : State) : (checkPrediction p s).dcacheStalled = s.dcacheStalled := by unfold checkPrediction; split <;> simp
@[simp] theorem checkPrediction_deHalted (p : Params) (s : State) : (checkPrediction p s).deHalted = s.deHalted := by unfold checkPrediction; split <;> simp
@[simp] theorem checkPrediction_exHalted (p : Params) (s : State) : (checkPrediction p s).exHalted = s.exHalted := by unfold checkPrediction; split <;> simp
@[simp] theorem checkPrediction_memHalted (p : Params) (s : State) : (checkPrediction p s).memHalted = s.memHalted := by unfold checkPrediction; split <;> simp
@[simp] theorem checkPrediction_status (p : Params) (s : State) : (checkPrediction p s).status = s.status := by unfold checkPrediction; split <;> simp
@[simp] theorem checkPrediction_cycleCount (p : Params) (s : State) : (checkPrediction p s).cycleCount = s.cycleCount := by unfold checkPrediction; split <;> simp
@[simp] theorem checkPrediction_retiredCount (p : Params) (s : State) : (checkPrediction p s).retiredCount = s.retiredCount := by unfold checkPrediction; split <;> simp
@[simp] theorem checkPrediction_deex (p : Params) (s : State) : (checkPrediction p s).deex = s.deex := by unfold checkPrediction; split <;> simp
@[simp] theorem checkPrediction_exmem (p : Params) (s : State) : (checkPrediction p s).exmem = s.exmem := by unfold checkPrediction; split <;> simp
@[simp] theorem checkPrediction_memwb (p : Params) (s : State) : (checkPrediction p s).memwb = s.memwb := by unfold checkPrediction; split <;> simp
@[simp] theorem checkPrediction_exmemCkpt (p : Params) (s : State) : (checkPrediction p s).exmemCkpt = s.exmemCkpt := by unfold checkPrediction; split <;> simp
@[simp] theorem checkPrediction_pred (p : Params) (s : State) : (checkPrediction p s).pred = s.pred := by unfold checkPrediction; split <;> simp
@[simp] theorem checkPrediction_dc (p : Params) (s : State) : (checkPrediction p s).dc = s.dc := by unfold checkPrediction; split <;> simp
@[simp] theorem checkPrediction_ts (p : Params) (s : State) : (checkPrediction p s).ts = s.ts := by unfold checkPrediction; split <;> simp
@[simp] theorem checkPrediction_mem (p : Params) (s : State) : (checkPrediction p s).mem = s.mem := by unfold checkPrediction; split <;> simp

@[simp] theorem checkPrediction_ic_lines (p : Params) (s : State) :
    (checkPrediction p s).ic.lines = s.ic.lines := by unfold checkPrediction; split <;> simp

@[simp] theorem resolveBranch_regs (p : Params) (s : State) : (resolveBranch p s).regs = s.regs := by simp [resolveBranch]
@[simp] theorem resolveBranch_z (p : Params) (s : State) : (resolveBranch p s).z = s.z := by simp [resolveBranch]
@[simp] theorem resolveBranch_n (p : Params) (s : State) : (resolveBranch p s).n = s.n := by simp [resolveBranch]
@[simp] theorem resolveBranch_dataStalled (p : Params) (s : State) : (resolveBranch p s).dataStalled = s.dataStalled := by simp [resolveBranch]
@[simp] theorem resolveBranch_dcacheStalled (p : Params) (s : State) : (resolveBranch p s).dcacheStalled = s.dcacheStalled := by simp [resolveBranch]
@[simp] theorem resolveBranch_deHalted (p : Params) (s : State) : (resolveBranch p s).deHalted = s.deHalted := by simp [resolveBranch]
@[simp] theorem resolveBranch_exHalted (p : Params) (s : State) : (resolveBranch p s).exHalted = s.exHalted := by simp [resolveBranch]
@[simp] theorem resolveBranch_memHalted (p : Params) (s : State) : (resolveBranch p s).memHalted = s.memHalted := by simp [resolveBranch]
@[simp] theorem resolveBranch_status (p : Params) (s : State) : (resolveBranch p s).status = s.status := by simp [resolveBranch]
@[simp] theorem resolveBranch_cycleCount (p : Params) (s : State) : (resolveBranch p s).cycleCount = s.cycleCount := by simp [resolveBranch]
@[simp] theorem resolveBranch_retiredCount (p : Params) (s : State) : (resolveBranch p s).retiredCount = s.retiredCount := by simp [resolveBranch]
@[simp] theorem resolveBranch_deex (p : Params) (s : State) : (resolveBranch p s).deex = s.deex := by simp [resolveBranch]
@[simp] theorem resolveBranch_exmem (p : Params) (s : State) : (resolveBranch p s).exmem = s.exmem := by simp [resolveBranch]
@[simp] theorem resolveBranch_memwb (p : Params) (s : State) : (resolveBranch p s).memwb = s.memwb := by simp [resolveBranch]
@[simp] theorem resolveBranch_exmemCkpt (p : Params) (s : State) : (resolveBranch p s).exmemCkpt = s.exmemCkpt := by simp [resolveBranch]
@[simp] theorem resolveBranch_dc (p : Params) (s : State) : (resolveBranch p s).dc = s.dc := by simp [resolveBranch]
@[simp] theorem resolveBranch_ts (p : Params) (s : State) : (resolveBranch p s).ts = s.ts := by simp [resolveBranch]
@[simp] theorem resolveBranch_mem (p : Params) (s : State) : (resolveBranch p s).mem = s.mem := by simp [resolveBranch]

@[simp] theorem resolveBranch_ic_lines (p : Params) (s : State) :
    (resolveBranch p s).ic.lines = s.ic.lines := by simp [resolveBranch]

@[simp] theorem executeInstr_regs (p : Params) (s : State) : (executeInstr p s).regs = s.regs := by unfold executeInstr; split <;> simp
@[simp] theorem executeInstr_z (p : Params) (s : State) : (executeInstr p s).z = s.z := by unfold executeInstr; split <;> simp
@[simp] theorem executeInstr_n (p : Params) (s : State) : (executeInstr p s).n = s.n := by unfold executeInstr; split <;> simp
@[simp] theorem executeInstr_dataStalled (p : Params) (s : State) : (executeInstr p s).dataStalled = s.dataStalled := by unfold executeInstr; split <;> simp
@[simp] theorem executeInstr_dcacheStalled (p : Params) (s : State) : (executeInstr p s).dcacheStalled = s.dcacheStalled := by unfold executeInstr; split <;> simp
@[simp] theorem executeInstr_deHalted (p : Params) (s : State) : (executeInstr p s).deHalted = s.deHalted := by unfold executeInstr; split <;> simp
@[simp] theorem executeInstr_memHalted (p : Params) (s : State) : (executeInstr p s).memHalted = s.memHalted := by unfold executeInstr; split <;> simp
@[simp] theorem executeInstr_status (p : Params) (s : State) : (executeInstr p s).status = s.status := by unfold executeInstr; split <;> simp
@[simp] theorem executeInstr_cycleCount (p : Params) (s : State) : (executeInstr p s).cycleCount = s.cycleCount := by unfold executeInstr; split <;> simp
@[simp] theorem executeInstr_retiredCount (p : Params) (s : State) : (executeInstr p s).retiredCount = s.retiredCount := by unfold executeInstr; split <;> simp
@[simp] theorem executeInstr_deex (p : Params) (s : State) : (executeInstr p s).deex = s.deex := by unfold executeInstr; split <;> simp
@[simp] theorem executeInstr_memwb (p : Params) (s : State) : (executeInstr p s).memwb = s.memwb := by unfold executeInstr; split <;> simp
@[simp] theorem executeInstr_exmemCkpt (p : Params) (s : State) : (executeInstr p s).exmemCkpt = s.exmemCkpt := by unfold executeInstr; split <;> simp
@[simp] theorem executeInstr_dc (p : Params) (s : State) : (executeInstr p s).dc = s.dc := by unfold executeInstr; split <;> simp
@[simp] theorem executeInstr_ts (p : Params) (s : State) : (executeInstr p s).ts = s.ts := by unfold executeInstr; split <;> simp
@[simp] theorem executeInstr_mem (p : Params) (s : State) : (executeInstr p s).mem = s.mem := by unfold executeInstr; split <;> simp

@[simp] theorem executeInstr_ic_lines (p : Params) (s : State) :
    (executeInstr p s).ic.lines = s.ic.lines := by unfold executeInstr; split <;> simp
@[simp] theorem executeInstr_exmem (p : Params) (s : State) : (executeInstr p s).exmem = exMemOf s := by
  simp [executeInstr]

@[simp] theorem executeStage_regs (p : Params) (s : State) : (executeStage p s).regs = s.regs := by unfold executeStage; split_ifs <;> simp
@[simp] theorem executeStage_z (p : Params) (s : State) : (executeStage p s).z = s.z := by unfold executeStage; split_ifs <;> simp
@[simp] theorem executeStage_n (p : Params) (s : State) : (executeStage p s).n = s.n := by unfold executeStage; split_ifs <;> simp
@[simp] theorem executeStage_dataStalled (p : Params) (s : State) : (executeStage p s).dataStalled = s.dataStalled := by unfold executeStage; split_ifs <;> simp
@[simp] theorem executeStage_dcacheStalled (p : Params) (s : State) : (executeStage p s).dcacheStalled = s.dcacheStalled := by unfold executeStage; split_ifs <;> simp
@[simp] theorem executeStage_deHalted (p : Params) (s : State) : (executeStage p s).deHalted = s.deHalted := by unfold executeStage; split_ifs <;> simp
@[simp] theorem executeStage_memHalted (p : Params) (s : State) : (executeStage p s).memHalted = s.memHalted := by unfold executeStage; split_ifs <;> simp
@[simp] theorem executeStage_status (p : Params) (s : State) : (executeStage p s).status = s.status := by unfold executeStage; split_ifs <;> simp
@[simp] theorem executeStage_cycleCount (p : Params) (s : State) : (executeStage p s).cycleCount = s.cycleCount := by unfold executeStage; split_ifs <;> simp
@[simp] theorem executeStage_retiredCount (p : Params) (s : State) : (executeStage p s).retiredCount = s.retiredCount := by unfold executeStage; split_ifs <;> simp
@[simp] theorem executeStage_deex (p : Params) (s : State) : (executeStage p s).deex = s.deex := by unfold executeStage; split_ifs <;> simp
@[simp] theorem executeStage_memwb (p : Params) (s : State) : (executeStage p s).memwb = s.memwb := by unfold executeStage; split_ifs <;> simp
@[simp] theorem executeStage_exmemCkpt (p : Params) (s : State) : (executeStage p s).exmemCkpt = s.exmemCkpt := by unfold executeStage; split_ifs <;> simp
@[simp] theorem executeStage_dc (p : Params) (s : State) : (executeStage p s).dc = s.dc := by unfold executeStage; split_ifs <;> simp
@[simp] theorem executeStage_ts (p : Params) (s : State) : (executeStage p s).ts = s.ts := by unfold executeStage; split_ifs <;> simp
@[simp] theorem executeStage_mem (p : Params) (s : State) : (executeStage p s).mem = s.mem := by unfold executeStage; split_ifs <;> simp

@[simp] theorem executeStage_ic_lines (p : Params) (s : State) :
    (executeStage p s).ic.lines = s.ic.lines := by unfold executeStage; split_ifs <;> simp

@[simp] theorem issueDecoded_regs (d : Decoded) (s : State) : (issueDecoded d s).regs = s.regs := by unfold issueDecoded; split <;> simp
@[simp] theorem issueDecoded_pc (d : Decoded) (s : State) : (issueDecoded d s).pc = s.pc := by unfold issueDecoded; split <;> simp
@[simp] theorem issueDecoded_z (d : Decoded) (s : State) : (issueDecoded d s).z = s.z := by unfold issueDecoded; split <;> simp
@[simp] theorem issueDecoded_n (d : Decoded) (s : State) : (issueDecoded d s).n = s.n := by unfold issueDecoded; split <;> simp
@[simp] theorem issueDecoded_controlStalled (d : Decoded) (s : State) : (issueDecoded d s).controlStalled = s.controlStalled := by unfold issueDecoded; split <;> simp
@[simp] theorem issueDecoded_dataStalled (d : Decoded) (s : State) : (issueDecoded d s).dataStalled = s.dataStalled := by unfold issueDecoded; split <;> simp
@[simp] theorem issueDecoded_dcacheStalled (d : Decoded) (s : State) : (issueDecoded d s).dcacheStalled = s.dcacheStalled := by unfold issueDecoded; split <;> simp
@[simp] theorem issueDecoded_feHalted (d : Decoded) (s : State) : (issueDecoded d s).feHalted = s.feHalted := by unfold issueDecoded; split <;> simp
@[simp] theorem issueDecoded_exHalted (d : Decoded) (s : State) : (issueDecoded d s).exHalted = s.exHalted := by unfold issueDecoded; split <;> simp
@[simp] theorem issueDecoded_memHalted (d : Decoded) (s : State) : (issueDecoded d s).memHalted = s.memHalted := by unfold issueDecoded; split <;> simp
@[simp] theorem issueDecoded_cycleCount (d : Decoded) (s : State) : (issueDecoded d s).cycleCount = s.cycleCount := by unfold issueDecoded; split <;> simp
@[simp] theorem issueDecoded_retiredCount (d : Decoded) (s : State) : (issueDecoded d s).retiredCount = s.retiredCount := by unfold issueDecoded; split <;> simp
@[simp] theorem issueDecoded_ifde (d : Decoded) (s : State) : (issueDecoded d s).ifde = s.ifde := by unfold issueDecoded; split <;> simp
@[simp] theorem issueDecoded_exmem (d : Decoded) (s : State) : (issueDecoded d s).exmem = s.exmem := by unfold issueDecoded; split <;> simp
@[simp] theorem issueDecoded_memwb (d : Decoded) (s : State) : (issueDecoded d s).memwb = s.memwb := by unfold issueDecoded; split <;> simp
@[simp] theorem issueDecoded_exmemCkpt (d : Decoded) (s : State) : (issueDecoded d s).exmemCkpt = s.exmemCkpt := by unfold issueDecoded; split <;> simp
@[simp] theorem issueDecoded_pred (d : Decoded) (s : State) : (issueDecoded d s).pred = s.pred := by unfold issueDecoded; split <;> simp
@[simp] theorem issueDecoded_ic (d : Decoded) (s : State) : (issueDecoded d s).ic = s.ic := by unfold issueDecoded; split <;> simp
@[simp] theorem issueDecoded_dc (d : Decoded) (s : State) : (issueDecoded d s).dc = s.dc := by unfold issueDecoded; split <;> simp
@[simp] theorem issueDecoded_ts (d : Decoded) (s : State) : (issueDecoded d s).ts = s.ts := by unfold issueDecoded; split <;> simp
@[simp] theorem issueDecoded_mem (d : Decoded) (s : State) : (issueDecoded d s).mem = s.mem := by unfold issueDecoded; split <;> simp

@[simp] theorem decodeStage_regs (d : Decoded) (s : State) : (decodeStage d s).regs = s.regs := by unfold decodeStage; split_ifs <;> simp
@[simp] theorem decodeStage_pc (d : Decoded) (s : State) : (decodeStage d s).pc = s.pc := by unfold decodeStage; split_ifs <;> simp
@[simp] theorem decodeStage_z (d : Decoded) (s : State) : (decodeStage d s).z = s.z := by unfold decodeStage; split_ifs <;> simp
@[simp] theorem decodeStage_n (d : Decoded) (s : State) : (decodeStage d s).n = s.n := by unfold decodeStage; split_ifs <;> simp
@[simp] theorem decodeStage_controlStalled (d : Decoded) (s : State) : (decodeStage d s).controlStalled = s.controlStalled := by unfold decodeStage; split_ifs <;> simp
@[simp] theorem decodeStage_dataStalled (d : Decoded) (s : State) : (decodeStage d s).dataStalled = s.dataStalled := by unfold decodeStage; split_ifs <;> simp
@[simp] theorem decodeStage_dcacheStalled (d : Decoded) (s : State) : (decodeStage d s).dcacheStalled = s.dcacheStalled := by unfold decodeStage; split_ifs <;> simp
@[simp] theorem decodeStage_feHalted (d : Decoded) (s : State) : (decodeStage d s).feHalted = s.feHalted := by unfold decodeStage; split_ifs <;> simp
@[simp] theorem decodeStage_exHalted (d : Decoded) (s : State) : (decodeStage d s).exHalted = s.exHalted := by unfold decodeStage; split_ifs <;> simp
@[simp] theorem decodeStage_memHalted (d : Decoded) (s : State) : (decodeStage d s).memHalted = s.memHalted := by unfold decodeStage; split_ifs <;> simp
@[simp] theorem decodeStage_cycleCount (d : Decoded) (s : State) : (decodeStage d s).cycleCount = s.cycleCount := by unfold decodeStage; split_ifs <;> simp
@[simp] theorem decodeStage_retiredCount (d : Decoded) (s : State) : (decodeStage d s).retiredCount = s.retiredCount := by unfold decodeStage; split_ifs <;> simp
@[simp] theorem decodeStage_ifde (d : Decoded) (s : State) : (decodeStage d s).ifde = s.ifde := by unfold decodeStage; split_ifs <;> simp
@[simp] theorem decodeStage_exmem (d : Decoded) (s : State) : (decodeStage d s).exmem = s.exmem := by unfold decodeStage; split_ifs <;> simp
@[simp] theorem decodeStage_memwb (d : Decoded) (s : State) : (decodeStage d s).memwb = s.memwb := by unfold decodeStage; split_ifs <;> simp
@[simp] theorem decodeStage_exmemCkpt (d : Decoded) (s : State) : (decodeStage d s).exmemCkpt = s.exmemCkpt := by unfold decodeStage; split_ifs <;> simp
@[simp] theorem decodeStage_pred (d : Decoded) (s : State) : (decodeStage d s).pred = s.pred := by unfold decodeStage; split_ifs <;> simp
@[simp] theorem decodeStage_ic (d : Decoded) (s : State) : (decodeStage d s).ic = s.ic := by unfold decodeStage; split_ifs <;> simp
@[simp] theorem decodeStage_dc (d : Decoded) (s : State) : (decodeStage d s).dc = s.dc := by unfold decodeStage; split_ifs <;> simp
@[simp] theorem decodeStage_ts (d : Decoded) (s : State) : (decodeStage d s).ts = s.ts := by unfold decodeStage; split_ifs <;> simp
@[simp] theorem decodeStage_mem (d : Decoded) (s : State) : (decodeStage d s).mem = s.mem := by unfold decodeStage; split_ifs <;> simp

@[simp] theorem fetchOpen_regs (p : Params) (h : Word32 → Bool) (s : State) :
    (fetchOpen p h s).regs = s.regs := by
  unfold fetchOpen
  split
  · rfl
  · have h := cacheRead_regs p .ic s.pc 4 s
    split <;> (rename_i e; rw [e] at h; simpa using h)
@[simp] theorem fetchOpen_z (p : Params) (h : Word32 → Bool) (s : State) :
    (fetchOpen p h s).z = s.z := by
  unfold fetchOpen
  split
  · rfl
  · have h := cacheRead_z p .ic s.pc 4 s
    split <;> (rename_i e; rw [e] at h; simpa using h)
@[simp] theorem fetchOpen_n (p : Params) (h : Word32 → Bool) (s : State) :
    (fetchOpen p h s).n = s.n := by
  unfold fetchOpen
  split
  · rfl
  · have h := cacheRead_n p .ic s.pc 4 s
    split <;> (rename_i e; rw [e] at h; simpa using h)
@[simp] theorem fetchOpen_dataStalled (p : Params) (h : Word32 → Bool) (s : State) :
    (fetchOpen p h s).dataStalled = s.dataStalled := by
  unfold fetchOpen
  split
  · rfl
  · have h := cacheRead_dataStalled p .ic s.pc 4 s
    split <;> (rename_i e; rw [e] at h; simpa using h)
@[simp] theorem fetchOpen_dcacheStalled (p : Params) (h : Word32 → Bool) (s : State) :
    (fetchOpen p h s).dcacheStalled = s.dcacheStalled := by
  unfold fetchOpen
  split
  · rfl
  · have h := cacheRead_dcacheStalled p .ic s.pc 4 s
    split <;> (rename_i e; rw [e] at h; simpa using h)
@[simp] theorem fetchOpen_deHalted (p : Params) (h : Word32 → Bool) (s : State) :
    (fetchOpen p h s).deHalted = s.deHalted := by
  unfold fetchOpen
  split
  · rfl
  · have h := cacheRead_deHalted p .ic s.pc 4 s
    split <;> (rename_i e; rw [e] at h; simpa using h)
@[simp] theorem fetchOpen_exHalted (p : Params) (h : Word32 → Bool) (s : State) :
    (fetchOpen p h s).exHalted = s.exHalted := by
  unfold fetchOpen
  split
  · rfl
  · have h := cacheRead_exHalted p .ic s.pc 4 s
    split <;> (rename_i e; rw [e] at h; simpa using h)
@[simp] theorem fetchOpen_memHalted (p : Params) (h : Word32 → Bool) (s : State) :
    (fetchOpen p h s).memHalted = s.memHalted := by
  unfold fetchOpen
  split
  · rfl
  · have h := cacheRead_memHalted p .ic s.pc 4 s
    split <;> (rename_i e; rw [e] at h; simpa using h)
@[simp] theorem fetchOpen_cycleCount (p : Params) (h : Word32 → Bool) (s : State) :
    (fetchOpen p h s).cycleCount = s.cycleCount := by
  unfold fetchOpen
  split
  · rfl
  · have h := cacheRead_cycleCount p .ic s.pc 4 s
    split <;> (rename_i e; rw [e] at h; simpa using h)
@[simp] theorem fetchOpen_retiredCount (p : Params) (h : Word32 → Bool) (s : State) :
    (fetchOpen p h s).retiredCount = s.retiredCount := by
  unfold fetchOpen
  split
  · rfl
  · have h := cacheRead_retiredCount p .ic s.pc 4 s
    split <;> (rename_i e; rw [e] at h; simpa using h)
@[simp] theorem fetchOpen_deex (p : Params) (h : Word32 → Bool) (s : State) :
    (fetchOpen p h s).deex = s.deex := by
  unfold fetchOpen
  split
  · rfl
  · have h := cacheRead_deex p .ic s.pc 4 s
    split <;> (rename_i e; rw [e] at h; simpa using h)
@[simp] theorem fetchOpen_exmem (p : Params) (h : Word32 → Bool) (s : State) :
    (fetchOpen p h s).exmem = s.exmem := by
  unfold fetchOpen
  split
  · rfl
  · have h := cacheRead_exmem p .ic s.pc 4 s
    split <;> (rename_i e; rw [e] at h; simpa using h)
@[simp] theorem fetchOpen_memwb (p : Params) (h : Word32 → Bool) (s : State) :
    (fetchOpen p h s).memwb = s.memwb := by
  unfold fetchOpen
  split
  · rfl
  · have h := cacheRead_memwb p .ic s.pc 4 s
    split <;> (rename_i e; rw [e] at h; simpa using h)
@[simp] theorem fetchOpen_exmemCkpt (p : Params) (h : Word32 → Bool) (s : State) :
    (fetchOpen p h s).exmemCkpt = s.exmemCkpt := by
  unfold fetchOpen
  split
  · rfl
  · have h := cacheRead_exmemCkpt p .ic s.pc 4 s
    split <;> (rename_i e; rw [e] at h; simpa using h)
@[simp] theorem fetchOpen_pred (p : Params) (h : Word32 → Bool) (s : State) :
    (fetchOpen p h s).pred = s.pred := by
  unfold fetchOpen
  split
  · rfl
  · have h := cacheRead_pred p .ic s.pc 4 s
    split <;> (rename_i e; rw [e] at h; simpa using h)
@[simp] theorem fetchOpen_mem (p : Params) (h : Word32 → Bool) (s : State) :
    (fetchOpen p h s).mem = s.mem := by
  unfold fetchOpen
  split
  · rfl
  · have h := cacheRead_mem p .ic s.pc 4 s
    split <;> (rename_i e; rw [e] at h; simpa using h)
@[simp] theorem fetchOpen_dc (p : Params) (h : Word32 → Bool) (s : State) :
    (fetchOpen p h s).dc = s.dc := by
  unfold fetchOpen
  split
  · rfl
  · have h := cacheRead_ic_dc p s.pc 4 s
    split <;> (rename_i e; rw [e] at h; simpa using h)

@[simp] theorem fetchStage_regs (p : Params) (h : Word32 → Bool) (s : State) : (fetchStage p h s).regs = s.regs := by unfold fetchStage; split <;> simp
@[simp] theorem fetchStage_z (p : Params) (h : Word32 → Bool) (s : State) : (fetchStage p h s).z = s.z := by unfold fetchStage; split <;> simp
@[simp] theorem fetchStage_n (p : Params) (h : Word32 → Bool) (s : State) : (fetchStage p h s).n = s.n := by unfold fetchStage; split <;> simp
@[simp] theorem fetchStage_dataStalled (p : Params) (h : Word32 → Bool) (s : State) : (fetchStage p h s).dataStalled = s.dataStalled := by unfold fetchStage; split <;> simp
@[simp] theorem fetchStage_dcacheStalled (p : Params) (h : Word32 → Bool) (s : State) : (fetchStage p h s).dcacheStalled = s.dcacheStalled := by unfold fetchStage; split <;> simp
@[simp] theorem fetchStage_deHalted (p : Params) (h : Word32 → Bool) (s : State) : (fetchStage p h s).deHalted = s.deHalted := by unfold fetchStage; split <;> simp
@[simp] theorem fetchStage_exHalted (p : Params) (h : Word32 → Bool) (s : State) : (fetchStage p h s).exHalted = s.exHalted := by unfold fetchStage; split <;> simp
@[simp] theorem fetchStage_memHalted (p : Params) (h : Word32 → Bool) (s : State) : (fetchStage p h s).memHalted = s.memHalted := by unfold fetchStage; split <;> simp
@[simp] theorem fetchStage_cycleCount (p : Params) (h : Word32 → Bool) (s : State) : (fetchStage p h s).cycleCount = s.cycleCount := by unfold fetchStage; split <;> simp
@[simp] theorem fetchStage_retiredCount (p : Params) (h : Word32 → Bool) (s : State) : (fetchStage p h s).retiredCount = s.retiredCount := by unfold fetchStage; split <;> simp
@[simp] theorem fetchStage_deex (p : Params) (h : Word32 → Bool) (s : State) : (fetchStage p h s).deex = s.deex := by unfold fetchStage; split <;> simp
@[simp] theorem fetchStage_exmem (p : Params) (h : Word32 → Bool) (s : State) : (fetchStage p h s).exmem = s.exmem := by unfold fetchStage; split <;> simp
@[simp] theorem fetchStage_memwb (p : Params) (h : Word32 → Bool) (s : State) : (fetchStage p h s).memwb = s.memwb := by unfold fetchStage; split <;> simp
@[simp] theorem fetchStage_exmemCkpt (p : Params) (h : Word32 → Bool) (s : State) : (fetchStage p h s).exmemCkpt = s.exmemCkpt := by unfold fetchStage; split <;> simp
@[simp] theorem fetchStage_pred (p : Params) (h : Word32 → Bool) (s : State) : (fetchStage p h s).pred = s.pred := by unfold fetchStage; split <;> simp
@[simp] theorem fetchStage_dc (p : Params) (h : Word32 → Bool) (s : State) : (fetchStage p h s).dc = s.dc := by unfold fetchStage; split <;> simp
@[simp] theorem fetchStage_mem (p : Params) (h : Word32 → Bool) (s : State) : (fetchStage p h s).mem = s.mem := by unfold fetchStage; split <;> simp

end Sys2Proof.Machine
end

