-- ==== Sys2Proof/Laws/Cache.lean ====
section
/-!
SUPPORT. What each cache operation can do, said once (40_cache.md): the cases of `Lookup`, `Read` and
`Write`, the way a fill chooses, and the tick of an empty query list and of one query.
-/

namespace Sys2Proof.Machine

/-! ## Lookup -/

theorem cacheLookup_some {p : Params} {c : CacheId} {a : Word} {s : State} {i : Nat} {l : Line}
    (h : cacheLookup p c a s = some (i, l)) :
    (∃ w < waysOf p c, i = lineIndex p c a w) ∧ tableGet (getCache c s).lines i = some l ∧
      l.tag = blockNumber p a := by
  unfold cacheLookup at h
  obtain ⟨w, hw, hf⟩ := List.exists_of_findSome?_eq_some h
  split at hf
  · rename_i l' hl
    split at hf
    · rename_i ht
      cases hf
      exact ⟨⟨w, List.mem_range.mp hw, rfl⟩, hl, ht⟩
    · cases hf
  · cases hf

theorem cacheLookup_none {p : Params} {c : CacheId} {a : Word} {s : State} :
    cacheLookup p c a s = none ↔
      ∀ w < waysOf p c, ∀ l, tableGet (getCache c s).lines (lineIndex p c a w) = some l →
        l.tag ≠ blockNumber p a := by
  unfold cacheLookup
  rw [List.findSome?_eq_none_iff]
  constructor
  · intro h w hw l hl ht
    have := h w (List.mem_range.mpr hw)
    simp [hl, ht] at this
  · intro h w hw
    split
    · rename_i l hl
      rw [if_neg (h w (List.mem_range.mp hw) l hl)]
    · rfl

/-- The lookup looks at the lines of its cache only. -/
theorem cacheLookup_congr {p : Params} {c : CacheId} {a : Word} {s t : State}
    (h : (getCache c t).lines = (getCache c s).lines) :
    cacheLookup p c a t = cacheLookup p c a s := by
  unfold cacheLookup; rw [h]

/-! ## Read and Write -/

/-- Everything `Read` can do (R112 to R115). -/
theorem cacheRead_cases (p : Params) (c : CacheId) (a : Word) (k : Nat) (s : State) :
    (crossesBlock p a k = true ∧ cacheRead p c a k s = (.raised, raiseFatal (.blockCross a) s)) ∨
    (crossesBlock p a k = false ∧ ∃ q, pendingQuery p c a s = some q ∧
      cacheRead p c a k s = (.waiting q.rem, s)) ∨
    (crossesBlock p a k = false ∧ pendingQuery p c a s = none ∧
      ∃ i l, cacheLookup p c a s = some (i, l) ∧
        cacheRead p c a k s = (.done (lineData l (blockOffset p a) k) i, touchLine c i l s)) ∨
    (crossesBlock p a k = false ∧ pendingQuery p c a s = none ∧ cacheLookup p c a s = none ∧
      cacheRead p c a k s = (.waiting missLatency,
        setQueries c ((getCache c s).queries ++ [{ base := blockBase p a, rem := missLatency }]) s)) := by
  unfold cacheRead
  by_cases hx : crossesBlock p a k = true
  · exact .inl ⟨hx, by rw [if_pos hx]⟩
  rw [if_neg hx]
  rw [Bool.not_eq_true] at hx
  rcases hq : pendingQuery p c a s with _ | q
  · rcases hl : cacheLookup p c a s with _ | ⟨i, l⟩
    · refine .inr (.inr (.inr ⟨hx, rfl, rfl, ?_⟩))
      have hno : (getCache c s).queries.any (fun q => q.base == blockBase p a) = false := by
        unfold pendingQuery at hq
        rw [List.find?_eq_none] at hq
        rw [List.any_eq_false]
        exact hq
      simp only [openQuery, hno, Bool.false_eq_true, if_false]
    · exact .inr (.inr (.inl ⟨hx, rfl, i, l, rfl, rfl⟩))
  · exact .inr (.inl ⟨hx, q, rfl, rfl⟩)

/-- `Read` with the block in the cache and no query for it (R114). -/
theorem cacheRead_hit {p : Params} {c : CacheId} {a : Word} {k : Nat} {s : State} {i : Nat} {l : Line}
    (hx : crossesBlock p a k = false) (hq : pendingQuery p c a s = none)
    (hl : cacheLookup p c a s = some (i, l)) :
    cacheRead p c a k s = (.done (lineData l (blockOffset p a) k) i, touchLine c i l s) := by
  simp [cacheRead, hx, hq, hl]

/-- `Read` with a query pending for the block (R115). -/
theorem cacheRead_pending {p : Params} {c : CacheId} {a : Word} {k : Nat} {s : State} {q : Query}
    (hx : crossesBlock p a k = false) (hq : pendingQuery p c a s = some q) :
    cacheRead p c a k s = (.waiting q.rem, s) := by
  simp [cacheRead, hx, hq]

/-- `Read` on a miss with no query for the block (R113). -/
theorem cacheRead_miss {p : Params} {c : CacheId} {a : Word} {k : Nat} {s : State}
    (hx : crossesBlock p a k = false) (hq : pendingQuery p c a s = none)
    (hl : cacheLookup p c a s = none) :
    cacheRead p c a k s = (.waiting missLatency,
      setQueries c ((getCache c s).queries ++ [{ base := blockBase p a, rem := missLatency }]) s) := by
  rcases cacheRead_cases p c a k s with ⟨h, -⟩ | ⟨-, q, h, -⟩ | ⟨-, -, i, l, h, -⟩ | ⟨-, -, -, h⟩
  · simp [hx] at h
  · simp [hq] at h
  · simp [hl] at h
  · exact h

/-- `Write` with the block in the cache and no query for it (R116): the stamp moves once, the line
takes the bytes, and its block goes to backing memory. -/
theorem cacheWrite_hit {p : Params} {c : CacheId} {a : Word} {k : Nat} {v : Word} {s : State} {i : Nat}
    {l : Line} (hx : crossesBlock p a k = false) (hq : pendingQuery p c a s = none)
    (hl : cacheLookup p c a s = some (i, l)) :
    cacheWrite p c a k v s =
      (.done (lineData l (blockOffset p a) k) i,
        storeLine p c i { l with stamp := s.ts + 1 } (blockOffset p a) k v (touchLine c i l s)) := by
  have hg : tableGet (getCache c (touchLine c i l s)).lines i = some { l with stamp := s.ts + 1 } := by
    cases c <;> simp
  unfold cacheWrite
  rw [cacheRead_hit hx hq hl]
  simp only [hg]

/-- `Write` that does not complete is the `Read` (R116). -/
theorem cacheWrite_not_done {p : Params} {c : CacheId} {a : Word} {k : Nat} {v : Word} {s : State}
    (h : ∀ d i, (cacheRead p c a k s).1 ≠ .done d i) :
    cacheWrite p c a k v s = cacheRead p c a k s := by
  unfold cacheWrite
  split
  · rename_i e
    exact absurd (congrArg Prod.fst e) (h _ _)
  · rfl

/-! ## Fill -/

/-- A fill stays inside its set (R119). -/
theorem victimWay_lt (p : Params) (c : CacheId) (a : Word) (s : State) (h : 0 < waysOf p c) :
    victimWay p c a s < waysOf p c := by
  unfold victimWay
  have gen : ∀ (ws : List Nat) (b : Nat), b < waysOf p c → (∀ w ∈ ws, w < waysOf p c) →
      ws.foldl (fun best w => if wayStamp p c a s w < wayStamp p c a s best then w else best) b
        < waysOf p c := by
    intro ws
    induction ws with
    | nil => intro b hb _; exact hb
    | cons w t ih =>
      intro b hb hw
      refine ih _ ?_ (fun x hx => hw x (List.mem_cons_of_mem _ hx))
      beta_reduce
      split
      · exact hw w List.mem_cons_self
      · exact hb
  exact gen _ 0 h (fun w hw => List.mem_range.mp hw)

/-- What a fill puts in the line it chose. -/
theorem tableGet_cacheFill (p : Params) (c : CacheId) (b : Word) (s : State) :
    tableGet (getCache c (cacheFill p c b s)).lines (lineIndex p c b (victimWay p c b s)) =
      some { tag := blockNumber p b, stamp := s.ts + 1, bytes := fillBytes p b s.mem } := by
  cases c <;> simp [cacheFill]

/-! ## Tick -/

@[simp] theorem setQueries_self (c : CacheId) (s : State) :
    setQueries c (getCache c s).queries s = s := by cases c <;> rfl

/-- A tick of a cache with no query does nothing (R118). -/
theorem cacheTick_idle {p : Params} {c : CacheId} {s : State} (h : (getCache c s).queries = []) :
    cacheTick p c s = s := by
  unfold cacheTick
  rw [h, tickQueries, ← h, setQueries_self]

/-- A tick of a cache with one query that stays pending (R118). -/
theorem cacheTick_one {p : Params} {c : CacheId} {s : State} {b : Word} {k : Nat}
    (h : (getCache c s).queries = [{ base := b, rem := k + 2 }]) :
    cacheTick p c s = setQueries c [{ base := b, rem := k + 1 }] s := by
  unfold cacheTick
  rw [h]
  simp [tickQueries]

/-- A tick of a cache whose one query resolves: the line is filled and the query removed (R118). -/
theorem cacheTick_last {p : Params} {c : CacheId} {s : State} {b : Word}
    (h : (getCache c s).queries = [{ base := b, rem := 1 }]) :
    cacheTick p c s = setQueries c [] (cacheFill p c b s) := by
  unfold cacheTick
  rw [h]
  simp [tickQueries]

end Sys2Proof.Machine
end

