-- ==== Sys2Proof/Laws/Registers.lean ====
section
/-!
SUPPORT. The general registers: a read after a write, and the hard-wired zero register.
-/

namespace Sys2Proof.Machine

@[simp] theorem readReg_zeroReg (s : State) : readReg s zeroReg = 0 := by simp [readReg]

/-- Reading a register looks at the registers only. -/
theorem readReg_congr {s t : State} (h : t.regs = s.regs) (r : Reg) : readReg t r = readReg s r := by
  unfold readReg; rw [h]

/-- A register read after a register write (10_state.md R20, R21): the zero register drops it. -/
theorem readReg_writeReg (s : State) (r r' : Reg) (v : Word) :
    readReg (writeReg r v s) r' = if r' = r ∧ r ≠ zeroReg then v else readReg s r' := by
  unfold readReg writeReg
  by_cases hr : r = zeroReg
  · simp [hr]
  by_cases hr' : r' = zeroReg
  · simp [hr, hr', Ne.symm hr]
  simp only [hr, hr', if_false, ne_eq, not_false_eq_true, and_true]
  have bound : r.toNat < 31 := by
    have h1 := r.isLt
    have h2 : r.toNat ≠ 31 := fun h => hr (BitVec.eq_of_toNat_eq h)
    omega
  by_cases hrr : r' = r
  · subst hrr; simp [bound]
  · have hn : r.toNat ≠ r'.toNat := fun h => hrr (BitVec.eq_of_toNat_eq h.symm)
    simp [hrr, hn]

end Sys2Proof.Machine
end

