-- ==== Sys2Proof/Laws/Cycle.lean ====
section
/-!
SUPPORT. What each stage does in each of its cases, said once, and how a cycle is put together when no
fault is raised.
-/

namespace Sys2Proof.Machine

/-! ## Faults -/

theorem isFatal_iff (s : State) : isFatal s = true ↔ ∃ i, s.status = .fatal i := by
  unfold isFatal; cases s.status <;> simp

theorem isFatal_congr {s t : State} (h : t.status = s.status) : isFatal t = isFatal s := by
  unfold isFatal; rw [h]

theorem isFatal_running {s : State} (h : s.status = .running) : isFatal s = false := by
  simp [isFatal, h]

theorem unlessFatal_ok {s : State} (h : isFatal s = false) (f : State → State) :
    unlessFatal f s = f s := by simp [unlessFatal, h]

theorem unlessFatal_fatal {s : State} (h : isFatal s = true) (f : State → State) :
    unlessFatal f s = s := by simp [unlessFatal, h]

/-! ## Hazard unit (42_hazard_forwarding.md R141) -/

theorem hazardUnit_idle {s : State} (h : s.deex.valid = true → isBubble s.deex.kind = true) :
    hazardUnit s = { s with dataStalled := false } := by
  unfold hazardUnit
  rw [if_pos]
  cases hv : s.deex.valid <;> simp_all

theorem hazardUnit_live {s : State} (hv : s.deex.valid = true) (hk : isBubble s.deex.kind = false) :
    hazardUnit s =
      { s with deex := patchedDeEx s, dataStalled := (slotA s).1 || (slotB s).1 } := by
  simp [hazardUnit, hv, hk]

/-- A slot no producer in flight matches keeps its value and asks for no stall (R145). -/
theorem forwardSlot_none {s : State} {r : Reg} (hx : exMemProduces s r = false)
    (hw : memWbProduces s r = false) (needed : Bool) (v : Word) :
    forwardSlot s needed r v = (false, v) := by
  simp [forwardSlot, hx, hw]

/-- A slot that is not needed, or names the zero register, is no dependency (R142). -/
theorem forwardSlot_independent {s : State} {needed : Bool} {r : Reg}
    (h : needed = false ∨ r = zeroReg) (v : Word) : forwardSlot s needed r v = (false, v) := by
  rcases h with h | h <;> simp [forwardSlot, h]

/-- `EXMEM` produces nothing when it is empty or holds a bubble (R149). -/
theorem exMemProduces_idle {s : State} (h : s.exmem.valid = true → isBubble s.exmem.kind = true)
    (r : Reg) : exMemProduces s r = false := by
  unfold exMemProduces
  cases hv : s.exmem.valid <;> simp_all

/-- `MEMWB` produces nothing when it is empty or holds a bubble (R149). -/
theorem memWbProduces_idle {s : State} (h : s.memwb.valid = true → isBubble s.memwb.kind = true)
    (r : Reg) : memWbProduces s r = false := by
  unfold memWbProduces
  cases hv : s.memwb.valid <;> simp_all

/-- The hazard unit changes nothing but the stall flag when nothing older is in flight. -/
theorem hazardUnit_alone {s : State} (hx : s.exmem.valid = true → isBubble s.exmem.kind = true)
    (hw : s.memwb.valid = true → isBubble s.memwb.kind = true) :
    hazardUnit s = { s with dataStalled := false } := by
  by_cases h : s.deex.valid = true ∧ isBubble s.deex.kind = false
  · have hf : exMemUpdatesFlags s = false := by
      unfold exMemUpdatesFlags
      cases hv : s.exmem.valid <;> simp_all
    have fa : slotA s = (false, s.deex.valA) :=
      forwardSlot_none (exMemProduces_idle hx _) (memWbProduces_idle hw _) _ _
    have fb : slotB s = (false, s.deex.valB) :=
      forwardSlot_none (exMemProduces_idle hx _) (memWbProduces_idle hw _) _ _
    rw [hazardUnit_live h.1 h.2]
    simp [patchedDeEx, fa, fb, hf]
  · refine hazardUnit_idle fun hv => ?_
    simpa [hv] using h

/-! ## Writeback (45_memory_writeback.md R239) -/

theorem writebackStage_idle {s : State} (hm : s.memHalted = false)
    (h : s.memwb.valid = true → isBubble s.memwb.kind = true) : writebackStage s = s := by
  unfold writebackStage writebackStop
  cases hv : s.memwb.valid <;> simp_all

theorem writebackStage_live {s : State} (hv : s.memwb.valid = true) (hk : isBubble s.memwb.kind = false) :
    writebackStage s = retire s.memwb (writebackStop s) := by
  simp [writebackStage, hv, hk]

/-- A register after an instruction retires (R236). -/
theorem readReg_retire (m : MemWb) (s : State) (r : Reg) :
    readReg (retire m s) r =
      if m.wb.regWrite = true ∧ r = m.dst ∧ m.dst ≠ zeroReg then memWbValue m else readReg s r := by
  have h1 : (retire m s).regs = (writebackReg m s).regs := by simp [retire]
  rw [readReg_congr h1]
  unfold writebackReg
  by_cases hw : m.wb.regWrite = true
  · simp only [hw, if_true, true_and, readReg_writeReg]
  · simp [hw]

/-! ## Memory (45_memory_writeback.md R230) -/

theorem memoryStage_halted {p : Params} {s : State} (h : s.memHalted = true) : memoryStage p s = s := by
  simp [memoryStage, h]

theorem memoryStage_empty {p : Params} {s : State} (h : s.exmem.valid = false) : memoryStage p s = s := by
  unfold memoryStage; split_ifs <;> simp_all

/-- The pass-through (R223). -/
theorem memoryStage_pass {p : Params} {s : State} (hm : s.memHalted = false) (hs : s.dcacheStalled = false)
    (hv : s.exmem.valid = true) (hp : passesThrough s.exmem = true) :
    memoryStage p s = propagateMemHalt { s with memwb := memWbOf s.exmem 0 } := by
  simp [memoryStage, restoreExMem, memoryMove, hm, hs, hv, hp]

/-- Memory works on the restored `EXMEM` (R222). -/
theorem memoryStage_live {p : Params} {s : State} (hm : s.memHalted = false) (hv : s.exmem.valid = true) :
    memoryStage p s = memoryMove p (restoreExMem s) := by
  simp [memoryStage, hm, hv]

theorem restoreExMem_idle {s : State} (h : s.dcacheStalled = false) : restoreExMem s = s := by
  simp [restoreExMem, h]

/-- An access that completes (R227). -/
theorem memoryMove_done {p : Params} {s s1 : State} {data : Word} {i : Nat}
    (hp : passesThrough s.exmem = false) (h : dataAccess p s = (.done data i, s1)) :
    memoryMove p s = completeMemory data s1 := by
  simp [memoryMove, hp, h]

/-- An access that does not complete in this cycle (R226). -/
theorem memoryMove_waiting {p : Params} {s s1 : State} {k : Nat}
    (hp : passesThrough s.exmem = false) (h : dataAccess p s = (.waiting k, s1)) :
    memoryMove p s = stallMemory s1 := by
  simp [memoryMove, hp, h]

/-- An access that raises a fatal fault (R224). -/
theorem memoryMove_raised {p : Params} {s s1 : State}
    (hp : passesThrough s.exmem = false) (h : dataAccess p s = (.raised, s1)) :
    memoryMove p s = s1 := by
  simp [memoryMove, hp, h]

/-! ## Execute (44_execute.md R204) -/

theorem executeStage_skip {p : Params} {s : State}
    (h : s.exHalted = true ∨ s.dcacheStalled = true ∨ s.deex.valid = false) : executeStage p s = s := by
  unfold executeStage
  split_ifs <;> simp_all

theorem executeStage_dataStall {p : Params} {s : State} (hx : s.exHalted = false)
    (hs : s.dcacheStalled = false) (hv : s.deex.valid = true) (hd : s.dataStalled = true) :
    executeStage p s = { s with exmem := bubbleExMem .dataBubble s.deex.pc } := by
  simp [executeStage, hx, hs, hv, hd]

theorem executeStage_bubble {p : Params} {s : State} (hx : s.exHalted = false)
    (hs : s.dcacheStalled = false) (hv : s.deex.valid = true) (hd : s.dataStalled = false)
    (hk : isBubble s.deex.kind = true) :
    executeStage p s = { s with exmem := bubbleExMem s.deex.kind s.deex.pc } := by
  simp [executeStage, hx, hs, hv, hd, hk]

theorem executeStage_live {p : Params} {s : State} (hx : s.exHalted = false)
    (hs : s.dcacheStalled = false) (hv : s.deex.valid = true) (hd : s.dataStalled = false)
    (hk : isBubble s.deex.kind = false) : executeStage p s = executeInstr p s := by
  simp [executeStage, hx, hs, hv, hd, hk]

/-- Execution of an instruction that is no branch (R195, R202, R203). -/
theorem executeInstr_plain {p : Params} {s : State} (hk : s.deex.kind ≠ .control) :
    executeInstr p s = propagateExHalt { s with exmem := exMemOf s } := by
  simp [executeInstr, hk]

/-! ## Decode (43_fetch_decode.md R176) -/

theorem decodeStage_gated {d : Decoded} {s : State}
    (h : s.deHalted = true ∨ s.dcacheStalled = true ∨ s.dataStalled = true ∨ s.ifde.valid = false) :
    decodeStage d s = s := by
  unfold decodeStage
  split_ifs <;> simp_all

theorem decodeStage_squash {d : Decoded} {s : State} (h1 : s.deHalted = false)
    (h2 : s.dcacheStalled = false) (h3 : s.dataStalled = false) (h4 : s.ifde.valid = true)
    (h5 : s.ifde.squash = true ∨ s.ifde.flush = true) :
    decodeStage d s = { s with deex := bubbleDeEx .controlBubble s.ifde.pc } := by
  unfold decodeStage
  rcases h5 with h | h <;> simp [h1, h2, h3, h4, h]

theorem decodeStage_memStall {d : Decoded} {s : State} (h1 : s.deHalted = false)
    (h2 : s.dcacheStalled = false) (h3 : s.dataStalled = false) (h4 : s.ifde.valid = true)
    (h5 : s.ifde.squash = false) (h6 : s.ifde.flush = false) (h7 : s.ifde.memStall = true) :
    decodeStage d s = { s with deex := bubbleDeEx .memBubble s.ifde.pc } := by
  simp [decodeStage, h1, h2, h3, h4, h5, h6, h7]

theorem decodeStage_ready {d : Decoded} {s : State} (h1 : s.deHalted = false)
    (h2 : s.dcacheStalled = false) (h3 : s.dataStalled = false) (h4 : s.ifde.valid = true)
    (h5 : s.ifde.squash = false) (h6 : s.ifde.flush = false) (h7 : s.ifde.memStall = false) :
    decodeStage d s = issueDecoded d s := by
  simp [decodeStage, h1, h2, h3, h4, h5, h6, h7]

/-! ## Fetch (43_fetch_decode.md R165) -/

theorem fetchStage_gated {p : Params} {f : Word32 → Bool} {s : State}
    (h : s.feHalted = true ∨ s.dcacheStalled = true ∨ s.dataStalled = true) : fetchStage p f s = s := by
  unfold fetchStage
  rcases h with h | h | h <;> simp [h]

theorem fetchStage_controlStalled {p : Params} {f : Word32 → Bool} {s : State} (h1 : s.feHalted = false)
    (h2 : s.dcacheStalled = false) (h3 : s.dataStalled = false) (h4 : s.controlStalled = true) :
    fetchStage p f s =
      { s with ifde := { s.ifde with squash := true }, controlStalled := false } := by
  simp [fetchStage, fetchOpen, h1, h2, h3, h4]

/-- Fetch with the word in the instruction cache (R161 to R164). -/
theorem fetchStage_hit {p : Params} {f : Word32 → Bool} {s : State} (h1 : s.feHalted = false)
    (h2 : s.dcacheStalled = false) (h3 : s.dataStalled = false) (h4 : s.controlStalled = false)
    {data : Word} {i : Nat} {s1 : State} (hr : cacheRead p .ic s.pc 4 s = (.done data i, s1)) :
    fetchStage p f s = deliverWord f (data.setWidth 32) s1 := by
  simp [fetchStage, fetchOpen, h1, h2, h3, h4, hr]

/-- Fetch with the word not yet in the instruction cache (R160). -/
theorem fetchStage_miss {p : Params} {f : Word32 → Bool} {s : State} (h1 : s.feHalted = false)
    (h2 : s.dcacheStalled = false) (h3 : s.dataStalled = false) (h4 : s.controlStalled = false)
    {k : Nat} {s1 : State} (hr : cacheRead p .ic s.pc 4 s = (.waiting k, s1)) :
    fetchStage p f s = markFetchStall s1 := by
  simp [fetchStage, fetchOpen, h1, h2, h3, h4, hr]

/-! ## The cycle (46_driver.md R246) -/

theorem cycleWith_stopped {p : Params} {f : Word32 → Bool} {d : Decoded} {s : State}
    (h : s.status ≠ .running) : cycleWith p f d s = s := by simp [cycleWith, h]

theorem cycleWith_running {p : Params} {f : Word32 → Bool} {d : Decoded} {s : State}
    (h : s.status = .running) :
    cycleWith p f d s =
      unlessFatal (cycleEnd p)
        (unlessFatal (fetchStage p f) (unlessFatal (decodeStage d) (cycleToExecute p s))) := by
  simp [cycleWith, h]

/-- A cycle up to Execute, from what each stage does; Memory raises nothing. -/
theorem cycleToExecute_of {p : Params} {s a b c e : State} (h1 : hazardUnit s = a)
    (h2 : writebackStage a = b) (h3 : memoryStage p b = c) (hc : isFatal c = false)
    (h4 : executeStage p c = e) : cycleToExecute p s = e := by
  unfold cycleToExecute
  rw [h1, h2, h3, unlessFatal_ok hc, h4]

/-- A cycle in which no stage raises a fault, from what each stage does. -/
theorem cycleWith_of {p : Params} {f : Word32 → Bool} {d : Decoded} {s a b c e : State}
    (hs : s.status = .running) (h1 : cycleToExecute p s = a) (ha : isFatal a = false)
    (h2 : decodeStage d a = b) (hb : isFatal b = false) (h3 : fetchStage p f b = c)
    (hc : isFatal c = false) (h4 : cycleEnd p c = e) : cycleWith p f d s = e := by
  rw [cycleWith_running hs, h1, unlessFatal_ok ha, h2, unlessFatal_ok hb, h3, unlessFatal_ok hc, h4]

/-- The end of a cycle when no query is pending. -/
theorem cycleEnd_idle {p : Params} {s : State} (hf : isFatal s = false) (hi : s.ic.queries = [])
    (hd : s.dc.queries = []) : cycleEnd p s = { s with cycleCount := s.cycleCount + 1 } := by
  unfold cycleEnd
  rw [cacheTick_idle (c := .ic) hi, unlessFatal_ok hf, cacheTick_idle (c := .dc) hd, unlessFatal_ok hf]

end Sys2Proof.Machine
end

