-- ==== Sys2Proof/Laws/Exec.lean ====
section
/-!
SUPPORT. The dispatch said once: the meaning of an instruction is the cycle in which its control record
passes Decode.
-/

namespace Sys2Proof.Machine

/-- Every arm of the dispatch is the issue of the instruction's record. -/
theorem exec_eq_issue (i : Instr) (s : State) : exec i s = issueCycle (recordOf i) s := by
  cases i <;> rfl

/-- The record of an instruction is never `INVALID` and never a bubble (30_encoding.md R86 items 1, 2). -/
theorem recordOf_kind (i : Instr) : (recordOf i).kind ≠ .invalid ∧ isBubble (recordOf i).kind = false := by
  cases i with
  | subs rd rn rm =>
    show (recSubs rd rn rm).kind ≠ .invalid ∧ isBubble (recSubs rd rn rm).kind = false
    unfold recSubs
    split
    · exact ⟨nofun, rfl⟩
    · exact ⟨nofun, rfl⟩
  | subis rd rn imm12 =>
    show (recSubis rd rn imm12).kind ≠ .invalid ∧ isBubble (recSubis rd rn imm12).kind = false
    unfold recSubis
    split
    · exact ⟨nofun, rfl⟩
    · exact ⟨nofun, rfl⟩
  | _ => exact ⟨nofun, rfl⟩

end Sys2Proof.Machine
end

