-- ==== Sys2Proof/Laws/Alone.lean ====
section
/-!
SUPPORT. The four cycles of an instruction that goes down the pipeline by itself, each said once over
any control record: `aloneDecode`, `aloneExecute`, `aloneMemory`, `aloneWriteback`.
-/

namespace Sys2Proof.Machine

theorem deExOf_congr {s t : State} (d : Decoded) (hr : t.regs = s.regs) (hi : t.ifde = s.ifde) :
    deExOf d t = deExOf d s := by
  unfold deExOf
  rw [readReg_congr hr, readReg_congr hr, hi]

/-- Hazard unit, Writeback and Memory with nothing in `EXMEM` and `MEMWB`: only bubbles move. -/
theorem cycleToMemory_idle {p : Params} {s : State} (hx : SlotIdle s.exmem.valid s.exmem.kind)
    (hw : SlotIdle s.memwb.valid s.memwb.kind) (hc : s.dcacheStalled = false) (hxh : s.exHalted = false)
    (hmh : s.memHalted = false) :
    ∃ m, SlotIdle m.valid m.kind ∧ hazardUnit s = { s with dataStalled := false } ∧
      writebackStage { s with dataStalled := false } = { s with dataStalled := false } ∧
      memoryStage p { s with dataStalled := false } = { s with dataStalled := false, memwb := m } := by
  by_cases hv : s.exmem.valid = true
  · refine ⟨memWbOf s.exmem 0, fun _ => hx hv, hazardUnit_alone hx hw, writebackStage_idle hmh hw, ?_⟩
    refine (memoryStage_pass (s := { s with dataStalled := false }) hmh hc hv ?_).trans ?_
    · simp [passesThrough, hx hv]
    · simp [propagateMemHalt, hxh]
  · exact ⟨s.memwb, hw, hazardUnit_alone hx hw, writebackStage_idle hmh hw,
      memoryStage_empty (by simpa using hv)⟩

/-- The stages up to Execute with no instruction in the pipeline: only bubbles move. -/
theorem cycleToExecute_empty {p : Params} {s : State} (hp : PipeEmpty s) (hb : BackEndOpen s) :
    ∃ e m, SlotIdle e.valid e.kind ∧ SlotIdle m.valid m.kind ∧
      cycleToExecute p s = { s with dataStalled := false, exmem := e, memwb := m } := by
  obtain ⟨hd, hx, hw⟩ := hp
  obtain ⟨hs, hc, _, hxh, hmh⟩ := hb
  obtain ⟨m, hm, e1, e2, e3⟩ := cycleToMemory_idle (p := p) hx hw hc hxh hmh
  by_cases hv : s.deex.valid = true
  · exact ⟨bubbleExMem s.deex.kind s.deex.pc, m, fun _ => hd hv, hm,
      cycleToExecute_of e1 e2 e3 (isFatal_running hs) (executeStage_bubble hxh hc hv rfl (hd hv))⟩
  · exact ⟨s.exmem, m, hx, hm, cycleToExecute_of e1 e2 e3 (isFatal_running hs)
      (executeStage_skip (.inr (.inr (by simpa using hv))))⟩

/-- Fetch waits for a miss: the block of `PC` is on its way, with `k` cycles to go. -/
def FetchWaits (s : State) (k : Nat) : Prop :=
  s.ifde.valid = true ∧ s.ifde.memStall = true ∧ s.ifde.squash = false ∧ s.ifde.flush = false ∧
    s.ifde.pc = s.pc ∧ crossesBlock defaultParams s.pc 4 = false ∧
    s.ic.queries = [{ base := blockBase defaultParams s.pc, rem := k }]

/-- Fetch stays as it is while it waits (43_fetch_decode.md R160). -/
theorem fetchStage_waits {f : Word32 → Bool} {s : State} {k : Nat} (h : FetchWaits s k)
    (hc : s.controlStalled = false) : fetchStage defaultParams f s = s := by
  obtain ⟨h1, h2, h3, h4, h5, h6, h7⟩ := h
  by_cases g : s.feHalted = true ∨ s.dcacheStalled = true ∨ s.dataStalled = true
  · exact fetchStage_gated g
  · simp only [not_or, Bool.not_eq_true] at g
    have hq : pendingQuery defaultParams .ic s.pc s =
        some { base := blockBase defaultParams s.pc, rem := k } := by
      simp [pendingQuery, getCache, h7]
    rw [fetchStage_miss g.1 g.2.1 g.2.2 hc (cacheRead_pending h6 hq)]
    have e : s.ifde = { s.ifde with valid := true, memStall := true, squash := false, flush := false, pc := s.pc } := by
      cases hi : s.ifde
      simp_all
    unfold markFetchStall
    rw [← e]

/-- The end of a cycle while one fetch is on its way and no data access is. -/
theorem cycleEnd_waits {s : State} {b : Word} {k : Nat} (hf : isFatal s = false)
    (hi : s.ic.queries = [{ base := b, rem := k + 2 }]) (hd : s.dc.queries = []) :
    cycleEnd defaultParams s =
      { s with
        ic := { s.ic with queries := [{ base := b, rem := k + 1 }] }
        cycleCount := s.cycleCount + 1 } := by
  have h1 : cacheTick defaultParams .ic s = setQueries .ic [{ base := b, rem := k + 1 }] s :=
    cacheTick_one (c := .ic) hi
  have h2 : cacheTick defaultParams .dc (setQueries .ic [{ base := b, rem := k + 1 }] s) =
      setQueries .ic [{ base := b, rem := k + 1 }] s := cacheTick_idle (c := .dc) hd
  have hf' : isFatal (setQueries .ic [{ base := b, rem := k + 1 }] s) = false :=
    (isFatal_congr (by simp)).trans hf
  unfold cycleEnd
  rw [h1, unlessFatal_ok hf', h2, unlessFatal_ok hf']
  rfl

/-- A fetch that misses with nothing on its way (43_fetch_decode.md R160). -/
theorem fetchStage_newMiss {f : Word32 → Bool} {s : State} (h1 : s.feHalted = false)
    (h2 : s.dcacheStalled = false) (h3 : s.dataStalled = false) (h4 : s.controlStalled = false)
    (hq : s.ic.queries = []) (hx : crossesBlock defaultParams s.pc 4 = false)
    (hl : cacheLookup defaultParams .ic s.pc s = none) :
    fetchStage defaultParams f s =
      { s with
        ifde := { s.ifde with valid := true, memStall := true, squash := false, flush := false, pc := s.pc }
        ic := { s.ic with queries := [{ base := blockBase defaultParams s.pc, rem := missLatency }] } } := by
  rw [fetchStage_miss h1 h2 h3 h4 (cacheRead_miss hx (by simp [pendingQuery, getCache, hq]) hl)]
  simp [markFetchStall, setQueries, setCache, getCache, hq]

/-- Cycle 1, Decode: the record goes to `DEEX` with its operands read; the fetch behind it misses. -/
theorem aloneDecode {s : State} {d : Decoded} (h : IssuesAlone s) (hk : d.kind ≠ .invalid) :
    ∃ e m, SlotIdle e.valid e.kind ∧ SlotIdle m.valid m.kind ∧
      cycleWith defaultParams refIsHalt d s =
        { s with
          dataStalled := false, exmem := e, memwb := m, deex := deExOf d s
          ifde := { s.ifde with valid := true, memStall := true, squash := false, flush := false, pc := s.pc }
          ic := { s.ic with queries := [{ base := blockBase defaultParams s.pc, rem := 9 }] }
          cycleCount := s.cycleCount + 1 } := by
  obtain ⟨hr, hp, hb, hcs, hfh, ⟨hqi, hqd⟩, hx, hl⟩ := h
  obtain ⟨e, m, he, hm, hc⟩ := cycleToExecute_empty (p := defaultParams) hp hb
  obtain ⟨hs, hdc, hdh, _, _⟩ := hb
  obtain ⟨r1, r2, r3, r4⟩ := hr
  have hdec : decodeStage d { s with dataStalled := false, exmem := e, memwb := m } =
      { s with dataStalled := false, exmem := e, memwb := m, deex := deExOf d s } := by
    refine (decodeStage_ready ?_ ?_ ?_ ?_ ?_ ?_ ?_).trans ?_
    · exact hdh
    · exact hdc
    · rfl
    · exact r1
    · exact r3
    · exact r4
    · exact r2
    · simp [issueDecoded, hk, propagateDeHalt, hfh, deExOf, readReg]
  refine ⟨e, m, he, hm, cycleWith_of hs hc (isFatal_running hs) hdec (isFatal_running hs) (fetchStage_newMiss hfh hdc rfl hcs hqi hx ?_) (isFatal_running hs)
    ?_⟩
  · exact (cacheLookup_congr rfl).trans hl
  · exact cycleEnd_waits (k := 8) (isFatal_running hs) rfl hqd

/-- Cycle 2, Execute, of an instruction that is no branch. -/
theorem aloneExecute {s : State} {k : Nat} (hb : BackEndOpen s) (hcs : s.controlStalled = false)
    (hv : s.deex.valid = true) (hk : isBubble s.deex.kind = false) (hn : s.deex.kind ≠ .control)
    (he : SlotIdle s.exmem.valid s.exmem.kind) (hm : SlotIdle s.memwb.valid s.memwb.kind)
    (hw : FetchWaits s (k + 2)) (hqd : s.dc.queries = []) :
    ∃ m, SlotIdle m.valid m.kind ∧ ∀ d,
      cycleWith defaultParams refIsHalt d s =
        { s with
          dataStalled := false, memwb := m, exmem := exMemOf s, deex := bubbleDeEx .memBubble s.pc
          ic := { s.ic with queries := [{ base := blockBase defaultParams s.pc, rem := k + 1 }] }
          cycleCount := s.cycleCount + 1 } := by
  obtain ⟨hs, hdc, hdh, hxh, hmh⟩ := hb
  obtain ⟨m, hm', e1, e2, e3⟩ := cycleToMemory_idle (p := defaultParams) he hm hdc hxh hmh
  refine ⟨m, hm', fun d => ?_⟩
  obtain ⟨w1, w2, w3, w4, w5, w6, w7⟩ := hw
  have hx : executeStage defaultParams { s with dataStalled := false, memwb := m } =
      { s with dataStalled := false, memwb := m, exmem := exMemOf s } := by
    refine (executeStage_live ?_ ?_ ?_ ?_ ?_).trans ?_
    · exact hxh
    · exact hdc
    · exact hv
    · rfl
    · exact hk
    · refine (executeInstr_plain (s := { s with dataStalled := false, memwb := m }) hn).trans ?_
      simp only [propagateExHalt, hdh, Bool.false_eq_true, if_false]
      rfl
  refine cycleWith_of hs (cycleToExecute_of e1 e2 e3 (isFatal_running hs) hx) (isFatal_running hs)
    (decodeStage_memStall hdh hdc rfl w1 w3 w4 w2) (isFatal_running hs)
    (fetchStage_waits (k := k + 2) ⟨w1, w2, w3, w4, w5, w6, w7⟩ hcs) (isFatal_running hs)
    ?_
  rw [w5]
  exact cycleEnd_waits (isFatal_running hs) w7 hqd

/-- Cycle 3, Memory: what Memory does is given; only bubbles follow. -/
theorem aloneMemory {s : State} {d : Decoded} {k : Nat} {m : MemWb} {dc' : Cache} {ts' : Nat} {mem' : Memory}
    (hb : BackEndOpen s) (hcs : s.controlStalled = false)
    (hv : s.deex.valid = true) (hk : isBubble s.deex.kind = true)
    (hm : SlotIdle s.memwb.valid s.memwb.kind) (hw : FetchWaits s (k + 2))
    (h3 : memoryStage defaultParams { s with dataStalled := false } =
      { s with dataStalled := false, memwb := m, dc := dc', ts := ts', mem := mem' })
    (hqd : dc'.queries = []) :
    cycleWith defaultParams refIsHalt d s =
      { s with
        dataStalled := false, memwb := m, dc := dc', ts := ts', mem := mem'
        exmem := bubbleExMem s.deex.kind s.deex.pc, deex := bubbleDeEx .memBubble s.pc
        ic := { s.ic with queries := [{ base := blockBase defaultParams s.pc, rem := k + 1 }] }
        cycleCount := s.cycleCount + 1 } := by
  obtain ⟨hs, hdc, hdh, hxh, hmh⟩ := hb
  obtain ⟨w1, w2, w3, w4, w5, w6, w7⟩ := hw
  have hz : hazardUnit s = { s with dataStalled := false } := hazardUnit_idle fun _ => hk
  have hwb : writebackStage { s with dataStalled := false } = { s with dataStalled := false } :=
    writebackStage_idle hmh hm
  refine cycleWith_of hs (cycleToExecute_of hz hwb h3 (isFatal_running hs)
    (executeStage_bubble hxh hdc hv rfl hk)) (isFatal_running hs)
    (decodeStage_memStall hdh hdc rfl w1 w3 w4 w2) (isFatal_running hs)
    (fetchStage_waits (k := k + 2) ⟨w1, w2, w3, w4, w5, w6, w7⟩ hcs) (isFatal_running hs) ?_
  rw [w5]
  exact cycleEnd_waits (isFatal_running hs) w7 hqd

/-- Cycle 4, Writeback: the instruction in `MEMWB` retires; only bubbles follow. -/
theorem aloneWriteback {s : State} {d : Decoded} {k : Nat} (hb : BackEndOpen s)
    (hcs : s.controlStalled = false) (hv : s.deex.valid = true) (hk : isBubble s.deex.kind = true)
    (hxv : s.exmem.valid = true) (hxk : isBubble s.exmem.kind = true)
    (hmv : s.memwb.valid = true) (hmk : isBubble s.memwb.kind = false) (hw : FetchWaits s (k + 2))
    (hqd : s.dc.queries = []) :
    cycleWith defaultParams refIsHalt d s =
      { s with
        regs := (writebackReg s.memwb s).regs
        z := if s.memwb.wb.flagsUpdate then s.memwb.newZ else s.z
        n := if s.memwb.wb.flagsUpdate then s.memwb.newN else s.n
        retiredCount := s.retiredCount + 1
        dataStalled := false, memwb := memWbOf s.exmem 0
        exmem := bubbleExMem s.deex.kind s.deex.pc, deex := bubbleDeEx .memBubble s.pc
        ic := { s.ic with queries := [{ base := blockBase defaultParams s.pc, rem := k + 1 }] }
        cycleCount := s.cycleCount + 1 } := by
  obtain ⟨hs, hdc, hdh, hxh, hmh⟩ := hb
  obtain ⟨w1, w2, w3, w4, w5, w6, w7⟩ := hw
  have hz : hazardUnit s = { s with dataStalled := false } := hazardUnit_idle fun _ => hk
  have hwb : writebackStage { s with dataStalled := false } =
      { s with
        dataStalled := false
        regs := (writebackReg s.memwb s).regs
        z := if s.memwb.wb.flagsUpdate then s.memwb.newZ else s.z
        n := if s.memwb.wb.flagsUpdate then s.memwb.newN else s.n
        retiredCount := s.retiredCount + 1 } := by
    refine (writebackStage_live (s := { s with dataStalled := false }) hmv hmk).trans ?_
    unfold retire writebackFlags writebackReg writebackStop writeReg
    rw [hmh]
    by_cases hd : s.memwb.dst = zeroReg <;> cases hf : s.memwb.wb.flagsUpdate <;>
      cases hg : s.memwb.wb.regWrite <;> simp only [hd, Bool.false_eq_true, if_true, if_false]
  have hmem : memoryStage defaultParams
      { s with
        dataStalled := false
        regs := (writebackReg s.memwb s).regs
        z := if s.memwb.wb.flagsUpdate then s.memwb.newZ else s.z
        n := if s.memwb.wb.flagsUpdate then s.memwb.newN else s.n
        retiredCount := s.retiredCount + 1 } =
      { s with
        dataStalled := false
        regs := (writebackReg s.memwb s).regs
        z := if s.memwb.wb.flagsUpdate then s.memwb.newZ else s.z
        n := if s.memwb.wb.flagsUpdate then s.memwb.newN else s.n
        retiredCount := s.retiredCount + 1
        memwb := memWbOf s.exmem 0 } := by
    refine (memoryStage_pass ?_ ?_ ?_ ?_).trans ?_
    · exact hmh
    · exact hdc
    · exact hxv
    · simp [passesThrough, hxk]
    · simp [propagateMemHalt, hxh]
  refine cycleWith_of hs (cycleToExecute_of hz hwb hmem (isFatal_running hs)
    (executeStage_bubble hxh hdc hv rfl hk)) (isFatal_running hs)
    (decodeStage_memStall hdh hdc rfl w1 w3 w4 w2) (isFatal_running hs)
    (fetchStage_waits (k := k + 2) ⟨w1, w2, w3, w4, w5, w6, w7⟩ hcs) (isFatal_running hs) ?_
  rw [w5]
  exact cycleEnd_waits (isFatal_running hs) w7 hqd

/-! ## The run -/

/-- A step is the cycle with some record at Decode. -/
theorem step_eq_cycle (s : State) : ∃ d, step s = .next (cycleWith defaultParams refIsHalt d s) := by
  unfold step
  split
  · rename_i i _
    exact ⟨recordOf i, exec_eq_issue i s⟩
  · exact ⟨invalidRecord, rfl⟩

theorem runCycles_zero (s : State) : runCycles 0 s = .next s := rfl

/-- A run of `k + 1` cycles whose first cycle is known. -/
theorem runCycles_succ {s t : State} {k : Nat}
    (h : ∀ d, cycleWith defaultParams refIsHalt d s = t) : runCycles (k + 1) s = runCycles k t := by
  obtain ⟨d, hd⟩ := step_eq_cycle s
  rw [h d] at hd
  show Host.Core.run Sys2Proof.core (k + 1) s = Host.Core.run Sys2Proof.core k t
  have hc : Sys2Proof.core.step s = .next t := hd
  simp only [Host.Core.run, hc]

/-- What Memory does with the instruction of a record issued alone, in the cycle it is in `EXMEM`: `s`
is the state of the issue. -/
def AloneMemory (d : Decoded) (s : State) (data : Word) (dc' : Cache) (ts' : Nat) (mem' : Memory) : Prop :=
  ∀ t : State, t.exmem = exMemOf { s with deex := deExOf d s } → t.dc = s.dc → t.ts = s.ts → t.mem = s.mem →
    t.dcacheStalled = false → t.exHalted = false → t.memHalted = false →
    memoryStage defaultParams t =
      { t with memwb := memWbOf t.exmem data, dc := dc', ts := ts', mem := mem' }

/-- An instruction that is no branch and no halt, alone in the pipeline: what four cycles do. -/
theorem runAlone {s : State} {i : Instr} {data : Word} {dc' : Cache} {ts' : Nat} {mem' : Memory}
    (h : IssuesAlone s) (hn : (recordOf i).kind ≠ .control)
    (hmem : AloneMemory (recordOf i) s data dc' ts' mem') (hq : dc'.queries = []) :
    ∃ t u, exec i s = .next t ∧ runCycles 3 t = .next u ∧ AloneFrame s u ∧
      u.dc = dc' ∧ u.ts = ts' ∧ u.mem = mem' ∧
      (∀ r, readReg u r =
        if (recordOf i).wb.regWrite = true ∧ r = (recordOf i).dst ∧ (recordOf i).dst ≠ zeroReg then
          (if (recordOf i).wb.memToReg = true then data else aluOf (deExOf (recordOf i) s))
        else readReg s r) ∧
      u.z = (if (recordOf i).wb.flagsUpdate then zeroFlag (aluOf (deExOf (recordOf i) s)) else s.z) ∧
      u.n = (if (recordOf i).wb.flagsUpdate then negFlag (aluOf (deExOf (recordOf i) s)) else s.n) := by
  obtain ⟨hinv, hbub⟩ := recordOf_kind i
  have hex := exec_eq_issue i s
  obtain ⟨e, m, he, hm, h1⟩ := aloneDecode (d := recordOf i) h hinv
  obtain ⟨hr, hp, hb, hcs, hfh, ⟨hqi, hqd⟩, hx, hl⟩ := h
  obtain ⟨hs, hdc, hdh, hxh, hmh⟩ := hb
  generalize recordOf i = d at *
  obtain ⟨t1, e1⟩ : ∃ t, cycleWith defaultParams refIsHalt d s = t := ⟨_, rfl⟩
  rw [e1] at h1
  obtain ⟨m2, hm2, h2⟩ := aloneExecute (s := t1) (k := 7)
    (by rw [h1]; exact ⟨hs, hdc, hdh, hxh, hmh⟩) (by rw [h1]; exact hcs) (by rw [h1]; rfl)
    (by rw [h1]; exact hbub) (by rw [h1]; exact hn) (by rw [h1]; exact he) (by rw [h1]; exact hm)
    (by rw [h1]; exact ⟨rfl, rfl, rfl, rfl, rfl, hx, rfl⟩) (by rw [h1]; exact hqd)
  generalize hc2 : ({ t1 with
          dataStalled := false, memwb := m2, exmem := exMemOf t1, deex := bubbleDeEx .memBubble t1.pc
          ic := { t1.ic with queries := [{ base := blockBase defaultParams t1.pc, rem := 7 + 1 }] }
          cycleCount := t1.cycleCount + 1 } : State) = t2 at h2
  have f2 : ∀ x, cycleWith defaultParams refIsHalt x t1 = t2 := h2
  have hb2 : BackEndOpen t2 := by rw [← hc2, h1]; exact ⟨hs, hdc, hdh, hxh, hmh⟩
  have hw2 : FetchWaits t2 8 := by rw [← hc2, h1]; exact ⟨rfl, rfl, rfl, rfl, rfl, hx, rfl⟩
  have hx2 : t2.exmem = exMemOf { s with deex := deExOf d s } := by rw [← hc2, h1]; rfl
  have h3 : ∀ x, cycleWith defaultParams refIsHalt x t2 = _ := fun x =>
    aloneMemory (s := t2) (d := x) (k := 6) hb2 (by rw [← hc2, h1]; exact hcs) (by rw [← hc2]; rfl)
      (by rw [← hc2]; rfl) (by rw [← hc2]; exact hm2) hw2
      (hmem { t2 with dataStalled := false } hx2 (by rw [← hc2, h1]) (by rw [← hc2, h1])
        (by rw [← hc2, h1]) hb2.2.1 hb2.2.2.2.1 hb2.2.2.2.2) hq
  generalize hc3 : ({ t2 with
          dataStalled := false, memwb := memWbOf t2.exmem data, dc := dc', ts := ts', mem := mem'
          exmem := bubbleExMem t2.deex.kind t2.deex.pc, deex := bubbleDeEx .memBubble t2.pc
          ic := { t2.ic with queries := [{ base := blockBase defaultParams t2.pc, rem := 6 + 1 }] }
          cycleCount := t2.cycleCount + 1 } : State) = t3 at h3
  have hb3 : BackEndOpen t3 := by rw [← hc3]; exact hb2
  have hw3 : FetchWaits t3 7 := by
    rw [← hc3]
    exact ⟨hw2.1, hw2.2.1, hw2.2.2.1, hw2.2.2.2.1, hw2.2.2.2.2.1, hw2.2.2.2.2.2.1, rfl⟩
  have h4 : ∀ x, cycleWith defaultParams refIsHalt x t3 = _ := fun x =>
    aloneWriteback (s := t3) (d := x) (k := 5) hb3 (by rw [← hc3, ← hc2, h1]; exact hcs)
      (by rw [← hc3]; rfl) (by rw [← hc3]; rfl) (by rw [← hc3]; rfl) (by rw [← hc3, ← hc2]; rfl)
      (by rw [← hc3]; rfl) (by rw [← hc3]; show isBubble t2.exmem.kind = false; rw [hx2]; exact hbub)
      hw3 (by rw [← hc3]; exact hq)
  refine ⟨t1, _, hex.trans (congrArg _ e1),
    (runCycles_succ f2).trans ((runCycles_succ h3).trans ((runCycles_succ h4).trans (runCycles_zero _))), ?_⟩
  have hregs : t3.regs = s.regs := by rw [← hc3, ← hc2, h1]
  have hz3 : t3.z = s.z := by rw [← hc3, ← hc2, h1]
  have hn3 : t3.n = s.n := by rw [← hc3, ← hc2, h1]
  have hwb3 : t3.memwb = memWbOf (exMemOf { s with deex := deExOf d s }) data := by
    rw [← hc3, ← hx2]
  refine ⟨⟨hb3.1, ⟨fun _ => rfl, fun _ => by rw [← hc3]; rfl,
      fun _ => by rw [← hc3, ← hc2]; rfl⟩, ?_, ?_, ?_, ?_, hb3.2.1, ?_, ?_, ?_, ?_, ?_, ?_⟩,
    ?_, ?_, ?_, ?_, ?_, ?_⟩
  · rw [← hc3, ← hc2, h1]
  · rw [← hc3, ← hc2, h1]
  · rw [← hc3, ← hc2, h1]
  · rw [← hc3, ← hc2, h1]; exact hcs
  · rw [← hc3, ← hc2, h1]
  · rw [← hc3, ← hc2, h1]
  · rw [← hc3, ← hc2, h1]
  · rw [← hc3, ← hc2, h1]
  · rw [← hc3, ← hc2, h1]; show s.cycleCount + 1 + 1 + 1 + 1 = s.cycleCount + 4; simp [BitVec.add_assoc]
  · rw [← hc3, ← hc2, h1]
  · rw [← hc3]
  · rw [← hc3]
  · rw [← hc3]
  · intro r
    show readReg { t3 with regs := (writebackReg t3.memwb t3).regs } r = _
    refine (readReg_congr (s := writebackReg t3.memwb t3) rfl r).trans ?_
    unfold writebackReg
    rw [hwb3]
    show readReg (if d.wb.regWrite then writeReg d.dst (if d.wb.memToReg then data else aluOf (deExOf d s)) t3 else t3) r = _
    cases hg : d.wb.regWrite
    · simp only [Bool.false_eq_true, if_false, false_and]
      exact readReg_congr hregs r
    · simp only [if_true, true_and, readReg_writeReg, readReg_congr hregs]
  · rw [hwb3, hz3]; rfl
  · rw [hwb3, hn3]; rfl

/-! ## What Memory does with it, case by case -/

/-- No data access (45_memory_writeback.md R223). -/
theorem aloneMemory_pass {d : Decoded} (s : State) (hr : d.mem.memRead = false)
    (hw : d.mem.memWrite = false) : AloneMemory d s 0 s.dc s.ts s.mem := by
  intro t hx hdc hts hmem hst hxh hmh
  have hv : t.exmem.valid = true := by rw [hx]; rfl
  have hp : passesThrough t.exmem = true := by
    rw [hx]
    show (isBubble d.kind || (!d.mem.memRead && !d.mem.memWrite)) = true
    simp [hr, hw]
  rw [memoryStage_pass hmh hst hv hp]
  simp [propagateMemHalt, hxh, ← hdc, ← hts, ← hmem]

/-- A load that hits (45_memory_writeback.md R224, R227). -/
theorem aloneMemory_load {d : Decoded} {s : State} {i : Nat} {l : Line} (hk : isBubble d.kind = false)
    (hr : d.mem.memRead = true) (hq : s.dc.queries = [])
    (hh : DataHits s (aluOf (deExOf d s)) (widthBytes d.mem.width) i l) :
    AloneMemory d s
      (lineData l (blockOffset defaultParams (aluOf (deExOf d s))) (widthBytes d.mem.width))
      { s.dc with lines := tablePut s.dc.lines i { l with stamp := s.ts + 1 } } (s.ts + 1) s.mem := by
  intro t hx hdc hts hmem hst hxh hmh
  have hv : t.exmem.valid = true := by rw [hx]; rfl
  have hp : passesThrough t.exmem = false := by
    rw [hx]
    show (isBubble d.kind || (!d.mem.memRead && !d.mem.memWrite)) = false
    simp [hr, hk]
  have hm : t.exmem.mem.memRead = true := by rw [hx]; exact hr
  have ha : t.exmem.aluResult = aluOf (deExOf d s) := by rw [hx]; rfl
  have hwd : t.exmem.mem.width = d.mem.width := by rw [hx]; rfl
  have hacc : dataAccess defaultParams t =
      (.done (lineData l (blockOffset defaultParams (aluOf (deExOf d s))) (widthBytes d.mem.width)) i,
        touchLine .dc i l t) := by
    unfold dataAccess
    rw [if_pos hm, ha, hwd]
    exact cacheRead_hit hh.1 (by simp [pendingQuery, getCache, hdc, hq])
      ((cacheLookup_congr (by simp [getCache, hdc])).trans hh.2)
  rw [memoryStage_live hmh hv, restoreExMem_idle hst, memoryMove_done hp hacc]
  simp [completeMemory, propagateMemHalt, touchLine, setLine, setCache, getCache, hxh, hm, hdc, hts, ← hmem, hst]

/-- The line a store of `n` bytes at `a` leaves (40_cache.md R116, R117). -/
def storedLine (l : Line) (stamp : Nat) (a : Word) (n : Nat) (v : Word) : Line :=
  patchLine { l with stamp := stamp } (blockOffset defaultParams a) n v

/-- A store that hits (45_memory_writeback.md R225, R227). -/
theorem aloneMemory_store {d : Decoded} {s : State} {i : Nat} {l l' : Line} (hk : isBubble d.kind = false)
    (hr : d.mem.memRead = false) (hw : d.mem.memWrite = true) (hq : s.dc.queries = [])
    (hh : DataHits s (aluOf (deExOf d s)) (widthBytes d.mem.width) i l)
    (hl' : l' = storedLine l (s.ts + 1) (aluOf (deExOf d s)) (widthBytes d.mem.width)
      (BitVec.ofNat 64 ((readReg s d.srcB).toNat % 2 ^ (8 * widthBytes d.mem.width)))) :
    AloneMemory d s 0 { s.dc with lines := tablePut (tablePut s.dc.lines i { l with stamp := s.ts + 1 }) i l' }
      (s.ts + 1) (syncBlock defaultParams l' s.mem) := by
  intro t hx hdc hts hmem hst hxh hmh
  have hv : t.exmem.valid = true := by rw [hx]; rfl
  have hp : passesThrough t.exmem = false := by
    rw [hx]
    show (isBubble d.kind || (!d.mem.memRead && !d.mem.memWrite)) = false
    simp [hr, hk, hw]
  have hm : t.exmem.mem.memRead = false := by rw [hx]; exact hr
  have ha : t.exmem.aluResult = aluOf (deExOf d s) := by rw [hx]; rfl
  have hwd : t.exmem.mem.width = d.mem.width := by rw [hx]; rfl
  have hsd : t.exmem.storeData = readReg s d.srcB := by rw [hx]; rfl
  have hacc : dataAccess defaultParams t =
      (.done (lineData l (blockOffset defaultParams (aluOf (deExOf d s))) (widthBytes d.mem.width)) i,
        storeLine defaultParams .dc i { l with stamp := t.ts + 1 }
          (blockOffset defaultParams (aluOf (deExOf d s))) (widthBytes d.mem.width) (storeValue t.exmem)
          (touchLine .dc i l t)) := by
    unfold dataAccess
    rw [if_neg (by simp [hm]), ha, hwd]
    exact cacheWrite_hit hh.1 (by simp [pendingQuery, getCache, hdc, hq])
      ((cacheLookup_congr (by simp [getCache, hdc])).trans hh.2)
  have hpl : patchLine { l with stamp := t.ts + 1 } (blockOffset defaultParams (aluOf (deExOf d s)))
      (widthBytes d.mem.width) (storeValue t.exmem) = l' := by
    rw [hl', storeValue, hsd, hwd, hts]; rfl
  rw [memoryStage_live hmh hv, restoreExMem_idle hst, memoryMove_done hp hacc]
  unfold storeLine
  simp only [hpl]
  simp [completeMemory, propagateMemHalt, touchLine, setLine, setCache, getCache, hm, hdc, hts, ← hmem, hxh, hst]

end Sys2Proof.Machine
end

