-- ==== Sys2Proof/Laws/Encoding.lean ====
section
/-!
SUPPORT. What the encoder lays down, format by format: every field of a word reads back as the part of
the word it was written from, and masking a word by its format's mask leaves the fixed parts.
-/

namespace Sys2Proof

/-! ## R -/

@[simp] theorem opcode11_encodeR (op : BitVec 11) (sh : BitVec 6) (rd rn rm : Reg) :
    opcode11 (encodeR op sh rd rn rm) = op := by
  apply BitVec.eq_of_getLsbD_eq
  intro i hi
  simp only [opcode11, encodeR, BitVec.getLsbD_append, BitVec.getLsbD_extractLsb']
  interval_cases i <;> simp
@[simp] theorem opcode10_encodeR (op : BitVec 11) (sh : BitVec 6) (rd rn rm : Reg) :
    opcode10 (encodeR op sh rd rn rm) = op.extractLsb' 1 10 := by
  apply BitVec.eq_of_getLsbD_eq
  intro i hi
  simp only [opcode10, encodeR, BitVec.getLsbD_append, BitVec.getLsbD_extractLsb']
  interval_cases i <;> simp
@[simp] theorem opcode9_encodeR (op : BitVec 11) (sh : BitVec 6) (rd rn rm : Reg) :
    opcode9 (encodeR op sh rd rn rm) = op.extractLsb' 2 9 := by
  apply BitVec.eq_of_getLsbD_eq
  intro i hi
  simp only [opcode9, encodeR, BitVec.getLsbD_append, BitVec.getLsbD_extractLsb']
  interval_cases i <;> simp
@[simp] theorem opcode8_encodeR (op : BitVec 11) (sh : BitVec 6) (rd rn rm : Reg) :
    opcode8 (encodeR op sh rd rn rm) = op.extractLsb' 3 8 := by
  apply BitVec.eq_of_getLsbD_eq
  intro i hi
  simp only [opcode8, encodeR, BitVec.getLsbD_append, BitVec.getLsbD_extractLsb']
  interval_cases i <;> simp
@[simp] theorem opcode6_encodeR (op : BitVec 11) (sh : BitVec 6) (rd rn rm : Reg) :
    opcode6 (encodeR op sh rd rn rm) = op.extractLsb' 5 6 := by
  apply BitVec.eq_of_getLsbD_eq
  intro i hi
  simp only [opcode6, encodeR, BitVec.getLsbD_append, BitVec.getLsbD_extractLsb']
  interval_cases i <;> simp
@[simp] theorem fieldRd_encodeR (op : BitVec 11) (sh : BitVec 6) (rd rn rm : Reg) :
    fieldRd (encodeR op sh rd rn rm) = rd := by
  apply BitVec.eq_of_getLsbD_eq
  intro i hi
  simp only [fieldRd, encodeR, BitVec.getLsbD_append, BitVec.getLsbD_extractLsb']
  interval_cases i <;> simp
@[simp] theorem fieldRn_encodeR (op : BitVec 11) (sh : BitVec 6) (rd rn rm : Reg) :
    fieldRn (encodeR op sh rd rn rm) = rn := by
  apply BitVec.eq_of_getLsbD_eq
  intro i hi
  simp only [fieldRn, encodeR, BitVec.getLsbD_append, BitVec.getLsbD_extractLsb']
  interval_cases i <;> simp
@[simp] theorem fieldRm_encodeR (op : BitVec 11) (sh : BitVec 6) (rd rn rm : Reg) :
    fieldRm (encodeR op sh rd rn rm) = rm := by
  apply BitVec.eq_of_getLsbD_eq
  intro i hi
  simp only [fieldRm, encodeR, BitVec.getLsbD_append, BitVec.getLsbD_extractLsb']
  interval_cases i <;> simp
@[simp] theorem fieldShamt_encodeR (op : BitVec 11) (sh : BitVec 6) (rd rn rm : Reg) :
    fieldShamt (encodeR op sh rd rn rm) = sh := by
  apply BitVec.eq_of_getLsbD_eq
  intro i hi
  simp only [fieldShamt, encodeR, BitVec.getLsbD_append, BitVec.getLsbD_extractLsb']
  interval_cases i <;> simp
theorem encodeR_mask (op : BitVec 11) (sh : BitVec 6) (rd rn rm : Reg) :
    (encodeR op sh rd rn rm) &&& 0xffe0fc00 = op ++ 0#5 ++ sh ++ 0#5 ++ 0#5 := by
  apply BitVec.eq_of_getLsbD_eq
  intro i hi
  simp only [encodeR, BitVec.getLsbD_append, BitVec.getLsbD_and]
  interval_cases i <;> simp

/-! ## I -/

@[simp] theorem opcode10_encodeI (op : BitVec 10) (rd rn : Reg) (imm : BitVec 12) :
    opcode10 (encodeI op rd rn imm) = op := by
  apply BitVec.eq_of_getLsbD_eq
  intro i hi
  simp only [opcode10, encodeI, BitVec.getLsbD_append, BitVec.getLsbD_extractLsb']
  interval_cases i <;> simp
@[simp] theorem opcode9_encodeI (op : BitVec 10) (rd rn : Reg) (imm : BitVec 12) :
    opcode9 (encodeI op rd rn imm) = op.extractLsb' 1 9 := by
  apply BitVec.eq_of_getLsbD_eq
  intro i hi
  simp only [opcode9, encodeI, BitVec.getLsbD_append, BitVec.getLsbD_extractLsb']
  interval_cases i <;> simp
@[simp] theorem opcode8_encodeI (op : BitVec 10) (rd rn : Reg) (imm : BitVec 12) :
    opcode8 (encodeI op rd rn imm) = op.extractLsb' 2 8 := by
  apply BitVec.eq_of_getLsbD_eq
  intro i hi
  simp only [opcode8, encodeI, BitVec.getLsbD_append, BitVec.getLsbD_extractLsb']
  interval_cases i <;> simp
@[simp] theorem opcode6_encodeI (op : BitVec 10) (rd rn : Reg) (imm : BitVec 12) :
    opcode6 (encodeI op rd rn imm) = op.extractLsb' 4 6 := by
  apply BitVec.eq_of_getLsbD_eq
  intro i hi
  simp only [opcode6, encodeI, BitVec.getLsbD_append, BitVec.getLsbD_extractLsb']
  interval_cases i <;> simp
@[simp] theorem fieldRd_encodeI (op : BitVec 10) (rd rn : Reg) (imm : BitVec 12) :
    fieldRd (encodeI op rd rn imm) = rd := by
  apply BitVec.eq_of_getLsbD_eq
  intro i hi
  simp only [fieldRd, encodeI, BitVec.getLsbD_append, BitVec.getLsbD_extractLsb']
  interval_cases i <;> simp
@[simp] theorem fieldRn_encodeI (op : BitVec 10) (rd rn : Reg) (imm : BitVec 12) :
    fieldRn (encodeI op rd rn imm) = rn := by
  apply BitVec.eq_of_getLsbD_eq
  intro i hi
  simp only [fieldRn, encodeI, BitVec.getLsbD_append, BitVec.getLsbD_extractLsb']
  interval_cases i <;> simp
@[simp] theorem fieldImm12_encodeI (op : BitVec 10) (rd rn : Reg) (imm : BitVec 12) :
    fieldImm12 (encodeI op rd rn imm) = imm := by
  apply BitVec.eq_of_getLsbD_eq
  intro i hi
  simp only [fieldImm12, encodeI, BitVec.getLsbD_append, BitVec.getLsbD_extractLsb']
  interval_cases i <;> simp
theorem encodeI_mask (op : BitVec 10) (rd rn : Reg) (imm : BitVec 12) :
    (encodeI op rd rn imm) &&& 0xffc00000 = op ++ 0#12 ++ 0#5 ++ 0#5 := by
  apply BitVec.eq_of_getLsbD_eq
  intro i hi
  simp only [encodeI, BitVec.getLsbD_append, BitVec.getLsbD_and]
  interval_cases i <;> simp

/-! ## Shift -/

@[simp] theorem opcode10_encodeShift (rd rn : Reg) (immr imms : BitVec 6) :
    opcode10 (encodeShift rd rn immr imms) = 0x34D#10 := by
  apply BitVec.eq_of_getLsbD_eq
  intro i hi
  simp only [opcode10, encodeShift, BitVec.getLsbD_append, BitVec.getLsbD_extractLsb']
  interval_cases i <;> simp
@[simp] theorem opcode9_encodeShift (rd rn : Reg) (immr imms : BitVec 6) :
    opcode9 (encodeShift rd rn immr imms) = (0x34D#10).extractLsb' 1 9 := by
  apply BitVec.eq_of_getLsbD_eq
  intro i hi
  simp only [opcode9, encodeShift, BitVec.getLsbD_append, BitVec.getLsbD_extractLsb']
  interval_cases i <;> simp
@[simp] theorem opcode8_encodeShift (rd rn : Reg) (immr imms : BitVec 6) :
    opcode8 (encodeShift rd rn immr imms) = (0x34D#10).extractLsb' 2 8 := by
  apply BitVec.eq_of_getLsbD_eq
  intro i hi
  simp only [opcode8, encodeShift, BitVec.getLsbD_append, BitVec.getLsbD_extractLsb']
  interval_cases i <;> simp
@[simp] theorem opcode6_encodeShift (rd rn : Reg) (immr imms : BitVec 6) :
    opcode6 (encodeShift rd rn immr imms) = (0x34D#10).extractLsb' 4 6 := by
  apply BitVec.eq_of_getLsbD_eq
  intro i hi
  simp only [opcode6, encodeShift, BitVec.getLsbD_append, BitVec.getLsbD_extractLsb']
  interval_cases i <;> simp
@[simp] theorem fieldRd_encodeShift (rd rn : Reg) (immr imms : BitVec 6) :
    fieldRd (encodeShift rd rn immr imms) = rd := by
  apply BitVec.eq_of_getLsbD_eq
  intro i hi
  simp only [fieldRd, encodeShift, BitVec.getLsbD_append, BitVec.getLsbD_extractLsb']
  interval_cases i <;> simp
@[simp] theorem fieldRn_encodeShift (rd rn : Reg) (immr imms : BitVec 6) :
    fieldRn (encodeShift rd rn immr imms) = rn := by
  apply BitVec.eq_of_getLsbD_eq
  intro i hi
  simp only [fieldRn, encodeShift, BitVec.getLsbD_append, BitVec.getLsbD_extractLsb']
  interval_cases i <;> simp
@[simp] theorem fieldShamt_encodeShift (rd rn : Reg) (immr imms : BitVec 6) :
    fieldShamt (encodeShift rd rn immr imms) = imms := by
  apply BitVec.eq_of_getLsbD_eq
  intro i hi
  simp only [fieldShamt, encodeShift, BitVec.getLsbD_append, BitVec.getLsbD_extractLsb']
  interval_cases i <;> simp
@[simp] theorem fieldImmr_encodeShift (rd rn : Reg) (immr imms : BitVec 6) :
    fieldImmr (encodeShift rd rn immr imms) = immr := by
  apply BitVec.eq_of_getLsbD_eq
  intro i hi
  simp only [fieldImmr, encodeShift, BitVec.getLsbD_append, BitVec.getLsbD_extractLsb']
  interval_cases i <;> simp
theorem encodeShift_mask (rd rn : Reg) (immr imms : BitVec 6) :
    (encodeShift rd rn immr imms) &&& 0xffc00000 = 0x34D#10 ++ 0#6 ++ 0#6 ++ 0#5 ++ 0#5 := by
  apply BitVec.eq_of_getLsbD_eq
  intro i hi
  simp only [encodeShift, BitVec.getLsbD_append, BitVec.getLsbD_and]
  interval_cases i <;> simp

/-! ## IW -/

@[simp] theorem opcode9_encodeIW (rd : Reg) (hw : BitVec 2) (imm : BitVec 16) :
    opcode9 (0x1A5#9 ++ hw ++ imm ++ rd) = 0x1A5#9 := by
  apply BitVec.eq_of_getLsbD_eq
  intro i hi
  simp only [opcode9, BitVec.getLsbD_append, BitVec.getLsbD_extractLsb']
  interval_cases i <;> simp
@[simp] theorem opcode8_encodeIW (rd : Reg) (hw : BitVec 2) (imm : BitVec 16) :
    opcode8 (0x1A5#9 ++ hw ++ imm ++ rd) = (0x1A5#9).extractLsb' 1 8 := by
  apply BitVec.eq_of_getLsbD_eq
  intro i hi
  simp only [opcode8, BitVec.getLsbD_append, BitVec.getLsbD_extractLsb']
  interval_cases i <;> simp
@[simp] theorem opcode6_encodeIW (rd : Reg) (hw : BitVec 2) (imm : BitVec 16) :
    opcode6 (0x1A5#9 ++ hw ++ imm ++ rd) = (0x1A5#9).extractLsb' 3 6 := by
  apply BitVec.eq_of_getLsbD_eq
  intro i hi
  simp only [opcode6, BitVec.getLsbD_append, BitVec.getLsbD_extractLsb']
  interval_cases i <;> simp
@[simp] theorem fieldRd_encodeIW (rd : Reg) (hw : BitVec 2) (imm : BitVec 16) :
    fieldRd (0x1A5#9 ++ hw ++ imm ++ rd) = rd := by
  apply BitVec.eq_of_getLsbD_eq
  intro i hi
  simp only [fieldRd, BitVec.getLsbD_append, BitVec.getLsbD_extractLsb']
  interval_cases i <;> simp
@[simp] theorem fieldHw_encodeIW (rd : Reg) (hw : BitVec 2) (imm : BitVec 16) :
    fieldHw (0x1A5#9 ++ hw ++ imm ++ rd) = hw := by
  apply BitVec.eq_of_getLsbD_eq
  intro i hi
  simp only [fieldHw, BitVec.getLsbD_append, BitVec.getLsbD_extractLsb']
  interval_cases i <;> simp
@[simp] theorem fieldImm16_encodeIW (rd : Reg) (hw : BitVec 2) (imm : BitVec 16) :
    fieldImm16 (0x1A5#9 ++ hw ++ imm ++ rd) = imm := by
  apply BitVec.eq_of_getLsbD_eq
  intro i hi
  simp only [fieldImm16, BitVec.getLsbD_append, BitVec.getLsbD_extractLsb']
  interval_cases i <;> simp
theorem encodeIW_mask (rd : Reg) (hw : BitVec 2) (imm : BitVec 16) :
    (0x1A5#9 ++ hw ++ imm ++ rd) &&& 0xff800000 = 0x1A5#9 ++ 0#2 ++ 0#16 ++ 0#5 := by
  apply BitVec.eq_of_getLsbD_eq
  intro i hi
  simp only [BitVec.getLsbD_append, BitVec.getLsbD_and]
  interval_cases i <;> simp

/-! ## D -/

@[simp] theorem opcode11_encodeD (op : BitVec 11) (rt rn : Reg) (imm : BitVec 9) :
    opcode11 (encodeD op rt rn imm) = op := by
  apply BitVec.eq_of_getLsbD_eq
  intro i hi
  simp only [opcode11, encodeD, BitVec.getLsbD_append, BitVec.getLsbD_extractLsb']
  interval_cases i <;> simp
@[simp] theorem opcode10_encodeD (op : BitVec 11) (rt rn : Reg) (imm : BitVec 9) :
    opcode10 (encodeD op rt rn imm) = op.extractLsb' 1 10 := by
  apply BitVec.eq_of_getLsbD_eq
  intro i hi
  simp only [opcode10, encodeD, BitVec.getLsbD_append, BitVec.getLsbD_extractLsb']
  interval_cases i <;> simp
@[simp] theorem opcode9_encodeD (op : BitVec 11) (rt rn : Reg) (imm : BitVec 9) :
    opcode9 (encodeD op rt rn imm) = op.extractLsb' 2 9 := by
  apply BitVec.eq_of_getLsbD_eq
  intro i hi
  simp only [opcode9, encodeD, BitVec.getLsbD_append, BitVec.getLsbD_extractLsb']
  interval_cases i <;> simp
@[simp] theorem opcode8_encodeD (op : BitVec 11) (rt rn : Reg) (imm : BitVec 9) :
    opcode8 (encodeD op rt rn imm) = op.extractLsb' 3 8 := by
  apply BitVec.eq_of_getLsbD_eq
  intro i hi
  simp only [opcode8, encodeD, BitVec.getLsbD_append, BitVec.getLsbD_extractLsb']
  interval_cases i <;> simp
@[simp] theorem opcode6_encodeD (op : BitVec 11) (rt rn : Reg) (imm : BitVec 9) :
    opcode6 (encodeD op rt rn imm) = op.extractLsb' 5 6 := by
  apply BitVec.eq_of_getLsbD_eq
  intro i hi
  simp only [opcode6, encodeD, BitVec.getLsbD_append, BitVec.getLsbD_extractLsb']
  interval_cases i <;> simp
@[simp] theorem fieldRd_encodeD (op : BitVec 11) (rt rn : Reg) (imm : BitVec 9) :
    fieldRd (encodeD op rt rn imm) = rt := by
  apply BitVec.eq_of_getLsbD_eq
  intro i hi
  simp only [fieldRd, encodeD, BitVec.getLsbD_append, BitVec.getLsbD_extractLsb']
  interval_cases i <;> simp
@[simp] theorem fieldRn_encodeD (op : BitVec 11) (rt rn : Reg) (imm : BitVec 9) :
    fieldRn (encodeD op rt rn imm) = rn := by
  apply BitVec.eq_of_getLsbD_eq
  intro i hi
  simp only [fieldRn, encodeD, BitVec.getLsbD_append, BitVec.getLsbD_extractLsb']
  interval_cases i <;> simp
@[simp] theorem fieldImm9_encodeD (op : BitVec 11) (rt rn : Reg) (imm : BitVec 9) :
    fieldImm9 (encodeD op rt rn imm) = imm := by
  apply BitVec.eq_of_getLsbD_eq
  intro i hi
  simp only [fieldImm9, encodeD, BitVec.getLsbD_append, BitVec.getLsbD_extractLsb']
  interval_cases i <;> simp
@[simp] theorem fieldOp2_encodeD (op : BitVec 11) (rt rn : Reg) (imm : BitVec 9) :
    fieldOp2 (encodeD op rt rn imm) = 0#2 := by
  apply BitVec.eq_of_getLsbD_eq
  intro i hi
  simp only [fieldOp2, encodeD, BitVec.getLsbD_append, BitVec.getLsbD_extractLsb']
  interval_cases i <;> simp
theorem encodeD_mask (op : BitVec 11) (rt rn : Reg) (imm : BitVec 9) :
    (encodeD op rt rn imm) &&& 0xffe00c00 = op ++ 0#9 ++ 0#2 ++ 0#5 ++ 0#5 := by
  apply BitVec.eq_of_getLsbD_eq
  intro i hi
  simp only [encodeD, BitVec.getLsbD_append, BitVec.getLsbD_and]
  interval_cases i <;> simp

/-! ## B -/

@[simp] theorem opcode6_encodeB (imm : BitVec 26) :
    opcode6 (0x05#6 ++ imm) = 0x05#6 := by
  apply BitVec.eq_of_getLsbD_eq
  intro i hi
  simp only [opcode6, BitVec.getLsbD_append, BitVec.getLsbD_extractLsb']
  interval_cases i <;> simp
@[simp] theorem fieldImm26_encodeB (imm : BitVec 26) :
    fieldImm26 (0x05#6 ++ imm) = imm := by
  apply BitVec.eq_of_getLsbD_eq
  intro i hi
  simp only [fieldImm26, BitVec.getLsbD_append, BitVec.getLsbD_extractLsb']
  interval_cases i <;> simp
theorem encodeB_mask (imm : BitVec 26) :
    (0x05#6 ++ imm) &&& 0xfc000000 = 0x05#6 ++ 0#26 := by
  apply BitVec.eq_of_getLsbD_eq
  intro i hi
  simp only [BitVec.getLsbD_append, BitVec.getLsbD_and]
  interval_cases i <;> simp

/-! ## CB -/

@[simp] theorem opcode8_encodeCB (op : BitVec 8) (low : BitVec 5) (imm : BitVec 19) :
    opcode8 (encodeCB op low imm) = op := by
  apply BitVec.eq_of_getLsbD_eq
  intro i hi
  simp only [opcode8, encodeCB, BitVec.getLsbD_append, BitVec.getLsbD_extractLsb']
  interval_cases i <;> simp
@[simp] theorem opcode6_encodeCB (op : BitVec 8) (low : BitVec 5) (imm : BitVec 19) :
    opcode6 (encodeCB op low imm) = op.extractLsb' 2 6 := by
  apply BitVec.eq_of_getLsbD_eq
  intro i hi
  simp only [opcode6, encodeCB, BitVec.getLsbD_append, BitVec.getLsbD_extractLsb']
  interval_cases i <;> simp
@[simp] theorem fieldRd_encodeCB (op : BitVec 8) (low : BitVec 5) (imm : BitVec 19) :
    fieldRd (encodeCB op low imm) = low := by
  apply BitVec.eq_of_getLsbD_eq
  intro i hi
  simp only [fieldRd, encodeCB, BitVec.getLsbD_append, BitVec.getLsbD_extractLsb']
  interval_cases i <;> simp
@[simp] theorem fieldImm19_encodeCB (op : BitVec 8) (low : BitVec 5) (imm : BitVec 19) :
    fieldImm19 (encodeCB op low imm) = imm := by
  apply BitVec.eq_of_getLsbD_eq
  intro i hi
  simp only [fieldImm19, encodeCB, BitVec.getLsbD_append, BitVec.getLsbD_extractLsb']
  interval_cases i <;> simp
theorem encodeCB_mask (op : BitVec 8) (low : BitVec 5) (imm : BitVec 19) :
    (encodeCB op low imm) &&& 0xff00001f = op ++ 0#19 ++ low := by
  apply BitVec.eq_of_getLsbD_eq
  intro i hi
  simp only [encodeCB, BitVec.getLsbD_append, BitVec.getLsbD_and]
  interval_cases i <;> simp

/-! ## Hlt -/

@[simp] theorem opcode11_encodeHlt (imm : BitVec 16) :
    opcode11 (0x6A2#11 ++ imm ++ 0#5) = 0x6A2#11 := by
  apply BitVec.eq_of_getLsbD_eq
  intro i hi
  simp only [opcode11, BitVec.getLsbD_append, BitVec.getLsbD_extractLsb']
  interval_cases i <;> simp
@[simp] theorem opcode10_encodeHlt (imm : BitVec 16) :
    opcode10 (0x6A2#11 ++ imm ++ 0#5) = (0x6A2#11).extractLsb' 1 10 := by
  apply BitVec.eq_of_getLsbD_eq
  intro i hi
  simp only [opcode10, BitVec.getLsbD_append, BitVec.getLsbD_extractLsb']
  interval_cases i <;> simp
@[simp] theorem opcode9_encodeHlt (imm : BitVec 16) :
    opcode9 (0x6A2#11 ++ imm ++ 0#5) = (0x6A2#11).extractLsb' 2 9 := by
  apply BitVec.eq_of_getLsbD_eq
  intro i hi
  simp only [opcode9, BitVec.getLsbD_append, BitVec.getLsbD_extractLsb']
  interval_cases i <;> simp
@[simp] theorem opcode8_encodeHlt (imm : BitVec 16) :
    opcode8 (0x6A2#11 ++ imm ++ 0#5) = (0x6A2#11).extractLsb' 3 8 := by
  apply BitVec.eq_of_getLsbD_eq
  intro i hi
  simp only [opcode8, BitVec.getLsbD_append, BitVec.getLsbD_extractLsb']
  interval_cases i <;> simp
@[simp] theorem opcode6_encodeHlt (imm : BitVec 16) :
    opcode6 (0x6A2#11 ++ imm ++ 0#5) = (0x6A2#11).extractLsb' 5 6 := by
  apply BitVec.eq_of_getLsbD_eq
  intro i hi
  simp only [opcode6, BitVec.getLsbD_append, BitVec.getLsbD_extractLsb']
  interval_cases i <;> simp
@[simp] theorem fieldRd_encodeHlt (imm : BitVec 16) :
    fieldRd (0x6A2#11 ++ imm ++ 0#5) = 0#5 := by
  apply BitVec.eq_of_getLsbD_eq
  intro i hi
  simp only [fieldRd, BitVec.getLsbD_append, BitVec.getLsbD_extractLsb']
  interval_cases i <;> simp
@[simp] theorem fieldImm16_encodeHlt (imm : BitVec 16) :
    fieldImm16 (0x6A2#11 ++ imm ++ 0#5) = imm := by
  apply BitVec.eq_of_getLsbD_eq
  intro i hi
  simp only [fieldImm16, BitVec.getLsbD_append, BitVec.getLsbD_extractLsb']
  interval_cases i <;> simp
theorem encodeHlt_mask (imm : BitVec 16) :
    (0x6A2#11 ++ imm ++ 0#5) &&& 0xffe0001f = 0x6A2#11 ++ 0#16 ++ 0#5 := by
  apply BitVec.eq_of_getLsbD_eq
  intro i hi
  simp only [BitVec.getLsbD_append, BitVec.getLsbD_and]
  interval_cases i <;> simp

end Sys2Proof
end

