-- ==== Sys2Proof/Laws/Gates.lean ====
section
/-!
SUPPORT. What the stages before Decode leave to Decode and Fetch (`beforeDecode`), said once: when a
fault is raised, what Execute does to Fetch's state, and which fields the rest of the cycle keeps.
-/

namespace Sys2Proof.Machine

/-- A field that a procedure keeps is kept whether or not the procedure runs. -/
theorem unlessFatal_keeps {α : Type} (g : State → α) {f : State → State} (h : ∀ s, g (f s) = g s) (s : State) :
    g (unlessFatal f s) = g s := by
  unfold unlessFatal
  split
  · rfl
  · exact h s

/-! ## Memory's fault -/

theorem memoryMove_isFatal (p : Params) (s : State) (hs : isFatal s = false) :
    isFatal (memoryMove p s) = true ↔
      passesThrough s.exmem = false ∧ crossesBlock p s.exmem.aluResult (widthBytes s.exmem.mem.width) = true := by
  have hm : ∀ u : State, isFatal (propagateMemHalt u) = isFatal u := fun u => isFatal_congr (by
    unfold propagateMemHalt; split <;> rfl)
  unfold memoryMove
  by_cases hp : passesThrough s.exmem = true
  · rw [if_pos hp, hm]
    have : isFatal { s with memwb := memWbOf s.exmem 0 } = false := hs
    simp only [this, hp, Bool.false_eq_true, false_iff, not_and, Bool.true_eq_false, false_implies]
  rw [if_neg hp]
  rw [Bool.not_eq_true] at hp
  have hr := cacheRead_cases p .dc s.exmem.aluResult (widthBytes s.exmem.mem.width) s
  have hnd : (∀ d i, (cacheRead p .dc s.exmem.aluResult (widthBytes s.exmem.mem.width) s).1 ≠ .done d i) →
      dataAccess p s = cacheRead p .dc s.exmem.aluResult (widthBytes s.exmem.mem.width) s := by
    intro h
    unfold dataAccess
    split
    · rfl
    · exact cacheWrite_not_done h
  rcases hr with ⟨hx, h⟩ | ⟨hx, q, -, h⟩ | ⟨hx, hq, i, l, hl, h⟩ | ⟨hx, -, -, h⟩
  · rw [hnd (by simp [h]), h]
    simp [hp, hx, raiseFatal, isFatal]
  · rw [hnd (by simp [h]), h]
    have : isFatal (stallMemory s) = isFatal s := isFatal_congr (by unfold stallMemory; split <;> rfl)
    simp [hx, this, hs]
  · have hd : ∃ d t, dataAccess p s = (.done d i, t) ∧ t.status = s.status := by
      unfold dataAccess
      split
      · exact ⟨_, _, h, by simp⟩
      · refine ⟨_, _, cacheWrite_hit hx hq hl, ?_⟩
        simp [storeLine]
    obtain ⟨d, t, h, ht⟩ := hd
    rw [h]
    have : isFatal (completeMemory d t) = isFatal s := by
      unfold completeMemory
      rw [hm]
      exact isFatal_congr ht
    simp [hx, this, hs]
  · rw [hnd (by simp [h]), h]
    have : isFatal (stallMemory (setQueries .dc ((getCache .dc s).queries ++
        [{ base := blockBase p s.exmem.aluResult, rem := missLatency }]) s)) = isFatal s :=
      isFatal_congr (by unfold stallMemory; split <;> simp)
    show isFatal (stallMemory _) = true ↔ _
    rw [this]
    simp [hx, hs]

/-! ## Up to Memory -/

/-- The state Memory leaves to Execute. -/
def afterMemory (s : State) : State := memoryStage defaultParams (writebackStage (hazardUnit s))

theorem beforeDecode_eq (s : State) :
    beforeDecode s = unlessFatal (executeStage defaultParams) (afterMemory s) := rfl

theorem writebackStage_not_fatal {s : State} (h : s.status = .running) :
    isFatal (writebackStage (hazardUnit s)) = false := by
  have hs : (hazardUnit s).status = .running := by simp [h]
  have hw : ∀ u : State, u.status = .running → isFatal (writebackStop u) = false := fun u hu => by
    unfold writebackStop
    split
    · rfl
    · exact isFatal_running hu
  unfold writebackStage
  split_ifs
  · exact isFatal_running hs
  · exact hw _ hs
  · refine (isFatal_congr ?_).trans (hw _ hs)
    unfold retire writebackFlags writebackReg
    split <;> split <;> simp

theorem afterMemory_isFatal {s : State} (h : s.status = .running) :
    isFatal (afterMemory s) = true ↔ MemoryFaults s := by
  have hw := writebackStage_not_fatal h
  unfold afterMemory memoryStage MemoryFaults MemoryRuns
  split_ifs with h1 h2
  · simp at h1; simp [hw, h1]
  · simp at h2; simp [hw, h2]
  · have hr : isFatal (restoreExMem (writebackStage (hazardUnit s))) = false :=
      (isFatal_congr (by unfold restoreExMem; split <;> rfl)).trans hw
    have he : (restoreExMem (writebackStage (hazardUnit s))).exmem = memoryOperand s := by
      unfold restoreExMem memoryOperand
      split <;> split <;> simp_all
    simp at h1 h2
    rw [memoryMove_isFatal _ _ hr, he]
    simp [h1, h2]

/-! ## Execute -/

/-- What Execute does to the state Fetch works on: nothing but to clear the control stall, or the repair
of a misprediction (44_execute.md R199, R200). -/
theorem executeStage_fetchState (p : Params) (s : State) :
    ((executeStage p s).pc = s.pc ∧ (executeStage p s).ifde = s.ifde ∧ (executeStage p s).ic = s.ic ∧
      (executeStage p s).feHalted = s.feHalted ∧
      ((executeStage p s).controlStalled = s.controlStalled ∨ (executeStage p s).controlStalled = false)) ∨
    ((executeStage p s).ifde = { s.ifde with flush := true } ∧ (executeStage p s).controlStalled = true ∧
      (executeStage p s).feHalted = false ∧ s.deex.valid = true ∧ s.deex.kind = .control) := by
  have hx : ∀ u : State, (propagateExHalt u).pc = u.pc ∧ (propagateExHalt u).ifde = u.ifde ∧
      (propagateExHalt u).ic = u.ic ∧ (propagateExHalt u).feHalted = u.feHalted ∧
      (propagateExHalt u).controlStalled = u.controlStalled := fun u => by
    unfold propagateExHalt; split <;> simp
  unfold executeStage
  split_ifs with h1 h2
  · simp
  · simp
  · simp
  · simp
  · unfold executeInstr
    simp only [hx]
    split_ifs with hk
    · unfold resolveBranch checkPrediction
      split_ifs
      · simp
      · right; simp_all
    · simp

@[simp] theorem beforeDecode_deex (s : State) : (beforeDecode s).deex = (hazardUnit s).deex :=
  (unlessFatal_keeps State.deex (executeStage_deex _) _).trans (by simp)

@[simp] theorem beforeDecode_dataStalled (s : State) :
    (beforeDecode s).dataStalled = (hazardUnit s).dataStalled :=
  (unlessFatal_keeps State.dataStalled (executeStage_dataStalled _) _).trans (by simp)

@[simp] theorem beforeDecode_deHalted (s : State) : (beforeDecode s).deHalted = s.deHalted :=
  (unlessFatal_keeps State.deHalted (executeStage_deHalted _) _).trans (by simp)

@[simp] theorem beforeDecode_regs (s : State) : (beforeDecode s).regs = (writebackStage (hazardUnit s)).regs :=
  (unlessFatal_keeps State.regs (executeStage_regs _) _).trans (by simp)

theorem beforeDecode_isFatal {s : State} (h : s.status = .running) :
    isFatal (beforeDecode s) = true ↔ MemoryFaults s := by
  rw [← afterMemory_isFatal h, beforeDecode_eq]
  have := unlessFatal_keeps isFatal (f := executeStage defaultParams)
    (fun u => isFatal_congr (executeStage_status _ u)) (afterMemory s)
  rw [this]

theorem beforeDecode_fetchState (s : State) :
    ((beforeDecode s).pc = s.pc ∧ (beforeDecode s).ifde = s.ifde ∧ (beforeDecode s).ic = s.ic ∧
      (beforeDecode s).feHalted = s.feHalted) ∨
    ((beforeDecode s).ifde = { s.ifde with flush := true } ∧ (beforeDecode s).controlStalled = true ∧
      (beforeDecode s).feHalted = false) := by
  have ha : (afterMemory s).pc = s.pc ∧ (afterMemory s).ifde = s.ifde ∧ (afterMemory s).ic = s.ic ∧
      (afterMemory s).feHalted = s.feHalted := by simp [afterMemory]
  rw [beforeDecode_eq]
  unfold unlessFatal
  split
  · exact .inl ha
  · rcases executeStage_fetchState defaultParams (afterMemory s) with ⟨h1, h2, h3, h4, -⟩ | ⟨h1, h2, h3, -⟩
    · exact .inl ⟨h1.trans ha.1, h2.trans ha.2.1, h3.trans ha.2.2.1, h4.trans ha.2.2.2⟩
    · exact .inr ⟨h1.trans (by rw [ha.2.1]), h2, h3⟩

/-- Of `IFDE` Execute writes the flush request only: Decode reads the word the cycle started with. -/
theorem beforeDecode_ifde (s : State) :
    (beforeDecode s).ifde = { s.ifde with flush := (beforeDecode s).ifde.flush } := by
  rcases beforeDecode_fetchState s with ⟨-, h, -, -⟩ | ⟨h, -, -⟩ <;> rw [h]

/-- Without a control stall left, Execute repaired nothing: `PC`, `IFDE`, the instruction cache and
`FE_halted` are those the cycle started with. -/
theorem beforeDecode_open {s : State} (h : (beforeDecode s).controlStalled = false) :
    (beforeDecode s).pc = s.pc ∧ (beforeDecode s).ifde = s.ifde ∧ (beforeDecode s).ic = s.ic ∧
      (beforeDecode s).feHalted = s.feHalted := by
  rcases beforeDecode_fetchState s with h' | ⟨-, h', -⟩
  · exact h'
  · rw [h] at h'; cases h'

/-! ## The rest of the cycle -/

/-- The cycle from what Decode starts with. -/
theorem cycleWith_beforeDecode {d : Decoded} {s : State} (h : s.status = .running) :
    cycleWith defaultParams refIsHalt d s =
      unlessFatal (cycleEnd defaultParams) (unlessFatal (fetchStage defaultParams refIsHalt)
        (unlessFatal (decodeStage d) (beforeDecode s))) := cycleWith_running h

/-- A field that the ticks keep, kept by the end of the cycle. -/
theorem cycleEnd_keeps {α : Type} (g : State → α) (hc : ∀ s n, g { s with cycleCount := n } = g s)
    (ht : ∀ c s, g (cacheTick defaultParams c s) = g s) (s : State) : g (cycleEnd defaultParams s) = g s :=
  (unlessFatal_keeps g (fun s => hc s _) _).trans
    ((unlessFatal_keeps g (ht .dc) _).trans (ht .ic s))

/-- The tick of the data cache and the cycle count leave the instruction cache to its own tick. -/
theorem cycleEnd_ic (s : State) : (cycleEnd defaultParams s).ic = (cacheTick defaultParams .ic s).ic :=
  (unlessFatal_keeps State.ic (f := fun s => { s with cycleCount := s.cycleCount + 1 }) (fun _ => rfl) _).trans
    (unlessFatal_keeps State.ic (fun _ => by simp) _)

/-- A field that Fetch and the ticks keep is that which Decode left. -/
theorem cycleWith_keeps {α : Type} (g : State → α) (hc : ∀ s n, g { s with cycleCount := n } = g s)
    (ht : ∀ c s, g (cacheTick defaultParams c s) = g s)
    (hf : ∀ s, g (fetchStage defaultParams refIsHalt s) = g s) {d : Decoded} {s : State}
    (h : s.status = .running) :
    g (cycleWith defaultParams refIsHalt d s) = g (unlessFatal (decodeStage d) (beforeDecode s)) := by
  rw [cycleWith_beforeDecode h, unlessFatal_keeps g (cycleEnd_keeps g hc ht), unlessFatal_keeps g hf]

theorem cycleWith_deex {d : Decoded} {s : State} (h : s.status = .running) :
    (cycleWith defaultParams refIsHalt d s).deex = (unlessFatal (decodeStage d) (beforeDecode s)).deex :=
  cycleWith_keeps State.deex (fun _ _ => rfl) (fun _ _ => by simp) (fun _ => by simp) h

theorem cycleWith_regs {d : Decoded} {s : State} (h : s.status = .running) :
    (cycleWith defaultParams refIsHalt d s).regs = (unlessFatal (decodeStage d) (beforeDecode s)).regs :=
  cycleWith_keeps State.regs (fun _ _ => rfl) (fun _ _ => by simp) (fun _ => by simp) h

theorem cycleWith_deHalted {d : Decoded} {s : State} (h : s.status = .running) :
    (cycleWith defaultParams refIsHalt d s).deHalted = (unlessFatal (decodeStage d) (beforeDecode s)).deHalted :=
  cycleWith_keeps State.deHalted (fun _ _ => rfl) (fun _ _ => by simp) (fun _ => by simp) h

/-- Decode that takes the word in `IFDE` (43_fetch_decode.md R172). -/
theorem decodeStage_open {d : Decoded} {s : State} (h : DecodeOpen s) :
    isFatal (beforeDecode s) = false ∧ (beforeDecode s).ifde = s.ifde ∧
      decodeStage d (beforeDecode s) = issueDecoded d (beforeDecode s) := by
  obtain ⟨hs, ⟨h1, h2, h3, h4⟩, hf, hg⟩ := h
  simp only [DecodeGated, not_or, Bool.not_eq_true] at hg
  obtain ⟨g1, g2, g3, g4⟩ := hg
  have hi : (beforeDecode s).ifde = s.ifde := by
    rw [beforeDecode_ifde, hf, ← h4]
  refine ⟨by rw [← Bool.not_eq_true, beforeDecode_isFatal hs]; exact g4, hi, ?_⟩
  apply decodeStage_ready <;> simp_all

/-- Decode that is gated (43_fetch_decode.md R167, R168, 60_exceptions.md R301). -/
theorem decodeStage_notOpen {d : Decoded} {s : State} (hs : s.status = .running) (h : DecodeGated s) :
    unlessFatal (decodeStage d) (beforeDecode s) = beforeDecode s := by
  by_cases hm : MemoryFaults s
  · exact unlessFatal_fatal ((beforeDecode_isFatal hs).mpr hm) _
  rw [unlessFatal_ok (by rw [← Bool.not_eq_true, beforeDecode_isFatal hs]; exact hm)]
  apply decodeStage_gated
  rcases h with h | h | h | h
  · exact .inl (by simpa using h)
  · exact .inr (.inl h)
  · exact .inr (.inr (.inl (by simpa using h)))
  · exact absurd h hm

end Sys2Proof.Machine
end

