-- ==== Sys2Proof/Laws/PerInstr.lean ====
section
/-!
SUPPORT. One lemma per instruction for the statements made about all instructions: the word the encoder
writes fits the instruction's row of the opcode table.
-/

namespace Sys2Proof

/-- The word of a well-formed instruction has the fixed bits of its row of spec/opcode_table.json
(47_refdec_instructions.md, "match/mask"). -/
def Laws.EncodeFitsRow.Statement (i : Instr) : Prop :=
  i.wellFormed = true → i.row.fits (encode i) = true

/-- `LSR` also fixes `imms = 63` (R274). -/
theorem encodeShift_lsrMask (rd rn : Reg) (immr : BitVec 6) :
    encodeShift rd rn immr 63 &&& 0xFFC0FC00 = 0xD340FC00 := by
  apply BitVec.eq_of_getLsbD_eq
  intro i hi
  simp only [encodeShift, BitVec.getLsbD_append, BitVec.getLsbD_and]
  interval_cases i <;> simp

/-- A compare-and-branch row leaves the low five bits open (R291, R292). -/
theorem encodeCB_mask8 (op : BitVec 8) (low : BitVec 5) (imm : BitVec 19) :
    encodeCB op low imm &&& 0xff000000 = op ++ 0#24 := by
  apply BitVec.eq_of_getLsbD_eq
  intro i hi
  simp only [encodeCB, BitVec.getLsbD_append, BitVec.getLsbD_and]
  interval_cases i <;> simp

theorem Laws.EncodeFitsRow.add (rd : Reg) (rn : Reg) (rm : Reg) :
    Laws.EncodeFitsRow.Statement (.add rd rn rm) :=
  fun _ => beq_iff_eq.mpr ((encodeR_mask _ _ _ _ _).trans rfl)

theorem Laws.EncodeFitsRow.adds (rd : Reg) (rn : Reg) (rm : Reg) :
    Laws.EncodeFitsRow.Statement (.adds rd rn rm) :=
  fun _ => beq_iff_eq.mpr ((encodeR_mask _ _ _ _ _).trans rfl)

theorem Laws.EncodeFitsRow.sub (rd : Reg) (rn : Reg) (rm : Reg) :
    Laws.EncodeFitsRow.Statement (.sub rd rn rm) :=
  fun _ => beq_iff_eq.mpr ((encodeR_mask _ _ _ _ _).trans rfl)

theorem Laws.EncodeFitsRow.subs (rd : Reg) (rn : Reg) (rm : Reg) :
    Laws.EncodeFitsRow.Statement (.subs rd rn rm) :=
  fun _ => beq_iff_eq.mpr ((encodeR_mask _ _ _ _ _).trans rfl)

theorem Laws.EncodeFitsRow.and (rd : Reg) (rn : Reg) (rm : Reg) :
    Laws.EncodeFitsRow.Statement (.and rd rn rm) :=
  fun _ => beq_iff_eq.mpr ((encodeR_mask _ _ _ _ _).trans rfl)

theorem Laws.EncodeFitsRow.ands (rd : Reg) (rn : Reg) (rm : Reg) :
    Laws.EncodeFitsRow.Statement (.ands rd rn rm) :=
  fun _ => beq_iff_eq.mpr ((encodeR_mask _ _ _ _ _).trans rfl)

theorem Laws.EncodeFitsRow.orr (rd : Reg) (rn : Reg) (rm : Reg) :
    Laws.EncodeFitsRow.Statement (.orr rd rn rm) :=
  fun _ => beq_iff_eq.mpr ((encodeR_mask _ _ _ _ _).trans rfl)

theorem Laws.EncodeFitsRow.eor (rd : Reg) (rn : Reg) (rm : Reg) :
    Laws.EncodeFitsRow.Statement (.eor rd rn rm) :=
  fun _ => beq_iff_eq.mpr ((encodeR_mask _ _ _ _ _).trans rfl)

theorem Laws.EncodeFitsRow.mul (rd : Reg) (rn : Reg) (rm : Reg) :
    Laws.EncodeFitsRow.Statement (.mul rd rn rm) :=
  fun _ => beq_iff_eq.mpr ((encodeR_mask _ _ _ _ _).trans rfl)

theorem Laws.EncodeFitsRow.addi (rd : Reg) (rn : Reg) (imm12 : BitVec 12) :
    Laws.EncodeFitsRow.Statement (.addi rd rn imm12) :=
  fun _ => beq_iff_eq.mpr ((encodeI_mask _ _ _ _).trans rfl)

theorem Laws.EncodeFitsRow.addis (rd : Reg) (rn : Reg) (imm12 : BitVec 12) :
    Laws.EncodeFitsRow.Statement (.addis rd rn imm12) :=
  fun _ => beq_iff_eq.mpr ((encodeI_mask _ _ _ _).trans rfl)

theorem Laws.EncodeFitsRow.subi (rd : Reg) (rn : Reg) (imm12 : BitVec 12) :
    Laws.EncodeFitsRow.Statement (.subi rd rn imm12) :=
  fun _ => beq_iff_eq.mpr ((encodeI_mask _ _ _ _).trans rfl)

theorem Laws.EncodeFitsRow.subis (rd : Reg) (rn : Reg) (imm12 : BitVec 12) :
    Laws.EncodeFitsRow.Statement (.subis rd rn imm12) :=
  fun _ => beq_iff_eq.mpr ((encodeI_mask _ _ _ _).trans rfl)

theorem Laws.EncodeFitsRow.lsl (rd : Reg) (rn : Reg) (shift : BitVec 6) :
    Laws.EncodeFitsRow.Statement (.lsl rd rn shift) :=
  fun _ => beq_iff_eq.mpr ((encodeShift_mask _ _ _ _).trans rfl)

theorem Laws.EncodeFitsRow.lsr (rd : Reg) (rn : Reg) (shift : BitVec 6) :
    Laws.EncodeFitsRow.Statement (.lsr rd rn shift) :=
  fun _ => beq_iff_eq.mpr (encodeShift_lsrMask rd rn shift)

theorem Laws.EncodeFitsRow.ldur (rt : Reg) (rn : Reg) (simm9 : BitVec 9) :
    Laws.EncodeFitsRow.Statement (.ldur rt rn simm9) :=
  fun _ => beq_iff_eq.mpr ((encodeD_mask _ _ _ _).trans rfl)

theorem Laws.EncodeFitsRow.ldurw (rt : Reg) (rn : Reg) (simm9 : BitVec 9) :
    Laws.EncodeFitsRow.Statement (.ldurw rt rn simm9) :=
  fun _ => beq_iff_eq.mpr ((encodeD_mask _ _ _ _).trans rfl)

theorem Laws.EncodeFitsRow.ldurh (rt : Reg) (rn : Reg) (simm9 : BitVec 9) :
    Laws.EncodeFitsRow.Statement (.ldurh rt rn simm9) :=
  fun _ => beq_iff_eq.mpr ((encodeD_mask _ _ _ _).trans rfl)

theorem Laws.EncodeFitsRow.ldurb (rt : Reg) (rn : Reg) (simm9 : BitVec 9) :
    Laws.EncodeFitsRow.Statement (.ldurb rt rn simm9) :=
  fun _ => beq_iff_eq.mpr ((encodeD_mask _ _ _ _).trans rfl)

theorem Laws.EncodeFitsRow.stur (rt : Reg) (rn : Reg) (simm9 : BitVec 9) :
    Laws.EncodeFitsRow.Statement (.stur rt rn simm9) :=
  fun _ => beq_iff_eq.mpr ((encodeD_mask _ _ _ _).trans rfl)

theorem Laws.EncodeFitsRow.sturw (rt : Reg) (rn : Reg) (simm9 : BitVec 9) :
    Laws.EncodeFitsRow.Statement (.sturw rt rn simm9) :=
  fun _ => beq_iff_eq.mpr ((encodeD_mask _ _ _ _).trans rfl)

theorem Laws.EncodeFitsRow.sturh (rt : Reg) (rn : Reg) (simm9 : BitVec 9) :
    Laws.EncodeFitsRow.Statement (.sturh rt rn simm9) :=
  fun _ => beq_iff_eq.mpr ((encodeD_mask _ _ _ _).trans rfl)

theorem Laws.EncodeFitsRow.sturb (rt : Reg) (rn : Reg) (simm9 : BitVec 9) :
    Laws.EncodeFitsRow.Statement (.sturb rt rn simm9) :=
  fun _ => beq_iff_eq.mpr ((encodeD_mask _ _ _ _).trans rfl)

theorem Laws.EncodeFitsRow.movz (rd : Reg) (hw : BitVec 2) (imm16 : BitVec 16) :
    Laws.EncodeFitsRow.Statement (.movz rd hw imm16) :=
  fun _ => beq_iff_eq.mpr ((encodeIW_mask _ _ _).trans rfl)

theorem Laws.EncodeFitsRow.b (imm26 : BitVec 26) :
    Laws.EncodeFitsRow.Statement (.b imm26) :=
  fun _ => beq_iff_eq.mpr ((encodeB_mask _).trans rfl)

theorem Laws.EncodeFitsRow.bEq (imm19 : BitVec 19) :
    Laws.EncodeFitsRow.Statement (.bEq imm19) :=
  fun _ => beq_iff_eq.mpr ((encodeCB_mask _ _ _).trans rfl)

theorem Laws.EncodeFitsRow.bNe (imm19 : BitVec 19) :
    Laws.EncodeFitsRow.Statement (.bNe imm19) :=
  fun _ => beq_iff_eq.mpr ((encodeCB_mask _ _ _).trans rfl)

theorem Laws.EncodeFitsRow.bGe (imm19 : BitVec 19) :
    Laws.EncodeFitsRow.Statement (.bGe imm19) :=
  fun _ => beq_iff_eq.mpr ((encodeCB_mask _ _ _).trans rfl)

theorem Laws.EncodeFitsRow.bLt (imm19 : BitVec 19) :
    Laws.EncodeFitsRow.Statement (.bLt imm19) :=
  fun _ => beq_iff_eq.mpr ((encodeCB_mask _ _ _).trans rfl)

theorem Laws.EncodeFitsRow.bGt (imm19 : BitVec 19) :
    Laws.EncodeFitsRow.Statement (.bGt imm19) :=
  fun _ => beq_iff_eq.mpr ((encodeCB_mask _ _ _).trans rfl)

theorem Laws.EncodeFitsRow.bLe (imm19 : BitVec 19) :
    Laws.EncodeFitsRow.Statement (.bLe imm19) :=
  fun _ => beq_iff_eq.mpr ((encodeCB_mask _ _ _).trans rfl)

theorem Laws.EncodeFitsRow.cbz (rt : Reg) (imm19 : BitVec 19) :
    Laws.EncodeFitsRow.Statement (.cbz rt imm19) :=
  fun _ => beq_iff_eq.mpr ((encodeCB_mask8 _ _ _).trans rfl)

theorem Laws.EncodeFitsRow.cbnz (rt : Reg) (imm19 : BitVec 19) :
    Laws.EncodeFitsRow.Statement (.cbnz rt imm19) :=
  fun _ => beq_iff_eq.mpr ((encodeCB_mask8 _ _ _).trans rfl)

theorem Laws.EncodeFitsRow.hlt (imm16 : BitVec 16) :
    Laws.EncodeFitsRow.Statement (.hlt imm16) :=
  fun _ => beq_iff_eq.mpr ((encodeHlt_mask _).trans rfl)

theorem Laws.EncodeFitsRow.nop :
    Laws.EncodeFitsRow.Statement (.nop) :=
  fun _ => rfl

end Sys2Proof
end

