-- ==== Sys2Proof/Tests/Slice0.lean ====
section
/-!
SUPPORT. The model's own tests: the WellFormed smoke test, decoding of words written out from the spec,
the spec's vectors (95_test_vectors.md) one step at a time, and for every obligation with hypotheses a
state that meets them together (`witness_<obligation>`).
-/

namespace Sys2Proof.Tests

/- One theorem at a time: each theorem that waits for the kernel keeps a thread. -/
set_option Elab.async false
open Sys2Proof Sys2Proof.Machine

/-! ## WellFormed -/

/-- R273: "`s = 0` has no `LSL` encoding". -/
theorem test_wellformed_refuses_lsl_0 : (Instr.lsl 2 1 0).wellFormed = false := by decide

theorem test_wellformed_lsl_63 : (Instr.lsl 2 1 63).wellFormed = true := by decide

/-! ## Decoding: a word of each family, field by field from its format (30_encoding.md R91 to R99) -/

theorem test_fields_r : decodeWord (0b10001011000#11 ++ 2#5 ++ 0#6 ++ 1#5 ++ 3#5) = .ok (.add 3 1 2) := by
  decide

theorem test_fields_i : decodeWord (0b1001000100#10 ++ 7#12 ++ 1#5 ++ 2#5) = .ok (.addi 2 1 7) := by decide

theorem test_fields_shift :
    decodeWord (0b1101001101#10 ++ 60#6 ++ 59#6 ++ 1#5 ++ 2#5) = .ok (.lsl 2 1 4) := by decide

theorem test_fields_iw : decodeWord (0b110100101#9 ++ 3#2 ++ 0xFFFF#16 ++ 1#5) = .ok (.movz 1 3 0xFFFF) := by
  decide

theorem test_fields_d :
    decodeWord (0b11111000010#11 ++ 0x1F8#9 ++ 0#2 ++ 9#5 ++ 4#5) = .ok (.ldur 4 9 (-8)) := by decide

theorem test_fields_b : decodeWord (0b000101#6 ++ 0x3FFFFFE#26) = .ok (.b (-2)) := by decide

theorem test_fields_bcond : decodeWord (0x54#8 ++ 3#19 ++ 0#1 ++ 0b1010#4) = .ok (.bGe 3) := by decide

theorem test_fields_cb : decodeWord (0xB5#8 ++ 0x7FFFD#19 ++ 1#5) = .ok (.cbnz 1 (-3)) := by decide

theorem test_fields_hlt : decodeWord (0b11010100010#11 ++ 0xFFFF#16 ++ 0#5) = .ok (.hlt 0xFFFF) := by decide

/-! ## Decoding: every constructor, from the words of vector V17 -/

theorem test_decode_add : decodeWord 0x8B020023 = .ok (.add 3 1 2) := by decide
theorem test_decode_adds : decodeWord 0xAB020023 = .ok (.adds 3 1 2) := by decide
theorem test_decode_sub : decodeWord 0xCB020023 = .ok (.sub 3 1 2) := by decide
theorem test_decode_subs : decodeWord 0xEB0C018D = .ok (.subs 13 12 12) := by decide
theorem test_decode_cmp : decodeWord 0xEB02003F = .ok (.subs 31 1 2) := by decide
theorem test_decode_and : decodeWord 0x8A020023 = .ok (.and 3 1 2) := by decide
theorem test_decode_ands : decodeWord 0xEA020023 = .ok (.ands 3 1 2) := by decide
theorem test_decode_orr : decodeWord 0xAA0203E3 = .ok (.orr 3 31 2) := by decide
theorem test_decode_eor : decodeWord 0xCA020023 = .ok (.eor 3 1 2) := by decide
theorem test_decode_mul : decodeWord 0x9B027C23 = .ok (.mul 3 1 2) := by decide
theorem test_decode_addi : decodeWord 0x91001C22 = .ok (.addi 2 1 7) := by decide
theorem test_decode_addis : decodeWord 0xB1001C22 = .ok (.addis 2 1 7) := by decide
theorem test_decode_subi : decodeWord 0xD10007E2 = .ok (.subi 2 31 1) := by decide
theorem test_decode_subis : decodeWord 0xF1000421 = .ok (.subis 1 1 1) := by decide
theorem test_decode_cmpi : decodeWord 0xF100143F = .ok (.subis 31 1 5) := by decide
theorem test_decode_lsl : decodeWord 0xD3410022 = .ok (.lsl 2 1 63) := by decide
theorem test_decode_lsr : decodeWord 0xD378FC64 = .ok (.lsr 4 3 56) := by decide
theorem test_decode_lsr_0 : decodeWord 0xD340FC22 = .ok (.lsr 2 1 0) := by decide
theorem test_decode_movz : decodeWord 0xD28000A1 = .ok (.movz 1 0 5) := by decide
theorem test_decode_ldur : decodeWord 0xF8400124 = .ok (.ldur 4 9 0) := by decide
theorem test_decode_ldurw : decodeWord 0xB8404124 = .ok (.ldurw 4 9 4) := by decide
theorem test_decode_ldurh : decodeWord 0x78402124 = .ok (.ldurh 4 9 2) := by decide
theorem test_decode_ldurb : decodeWord 0x38401124 = .ok (.ldurb 4 9 1) := by decide
theorem test_decode_stur : decodeWord 0xF8000123 = .ok (.stur 3 9 0) := by decide
theorem test_decode_sturw : decodeWord 0xB8004123 = .ok (.sturw 3 9 4) := by decide
theorem test_decode_sturh : decodeWord 0x78002123 = .ok (.sturh 3 9 2) := by decide
theorem test_decode_sturb : decodeWord 0x38001123 = .ok (.sturb 3 9 1) := by decide
theorem test_decode_b : decodeWord 0x14000003 = .ok (.b 3) := by decide
theorem test_decode_b_eq : decodeWord 0x54000040 = .ok (.bEq 2) := by decide
theorem test_decode_b_ne : decodeWord 0x54FFFFC1 = .ok (.bNe (-2)) := by decide
theorem test_decode_b_ge : decodeWord 0x5400006A = .ok (.bGe 3) := by decide
theorem test_decode_b_lt : decodeWord 0x5400006B = .ok (.bLt 3) := by decide
theorem test_decode_b_gt : decodeWord 0x5400006C = .ok (.bGt 3) := by decide
theorem test_decode_b_le : decodeWord 0x5400006D = .ok (.bLe 3) := by decide
theorem test_decode_cbz : decodeWord 0xB400005F = .ok (.cbz 31 2) := by decide
theorem test_decode_cbnz : decodeWord 0xB5FFFFA1 = .ok (.cbnz 1 (-3)) := by decide
theorem test_decode_hlt : decodeWord 0xD4400000 = .ok (.hlt 0) := by decide
theorem test_decode_nop : decodeWord 0xD503201F = .ok .nop := by decide

/-- The words of vector V18 are `INVALID`. -/
theorem test_invalid_words :
    ([0x00000000#32, 0xFFFFFFFF#32, 0x8B020423#32, 0x9B020023#32, 0xD3400022#32, 0x54000042#32,
      0x54000050#32, 0x91400422#32, 0xD503203F#32, 0xF8400524#32, 0xD4200000#32, 0x94000000#32,
      0xD65F03C0#32, 0x1A000000#32].map refDecode).all (fun d => d.kind = .invalid) = true := by
  decide +kernel

/-- `IsHalt` of vector V17: the two `HLT` rows, and not a row beside them. -/
theorem test_is_halt : refIsHalt 0xD4400000 = true ∧ refIsHalt 0xD45FFFE0 = true ∧
    refIsHalt 0xD503201F = false ∧ refIsHalt 0xD4400001 = false := by decide

/-! ## Helpers -/

/-- The state an outcome holds. -/
def stateOf (o : Host.Outcome State Fault Refusal) : State :=
  match o with
  | .next t => t
  | .fault _ | .refused _ => State.reset

/-- The state after a step. -/
def after (s : State) : State := stateOf (step s)

theorem step_after (s : State) : step s = .next (after s) := by
  obtain ⟨d, h⟩ := step_eq_cycle s
  simp [after, stateOf, h]

/-- The machine after reset with `x[1]` and `x[2]` set and `PC` past two fetches. -/
def base (x1 x2 : Word) : State := { writeReg 1 x1 (writeReg 2 x2 State.reset) with pc := 0x400018 }

/-- An instruction at `0x400010` in `DEEX`, its operands read, predicted to go on at `pn`. -/
def inExecute (i : Instr) (pn : Word) (s : State) : State :=
  { s with deex := { deExOf (recordOf i) s with pc := 0x400010, predNext := pn } }

/-- `EXMEM` after one step from an instruction in `DEEX`: result, store datum, `newZ`, `newN`, `dst`. -/
def executed (i : Instr) (x1 x2 : Word) : Word × Bool × Bool :=
  let e := (after (inExecute i 0x400014 (base x1 x2))).exmem
  (e.aluResult, e.newZ, e.newN)

/-- `PC` after one step from a branch in `DEEX`, with the flags given. -/
def branched (i : Instr) (z n : Bool) (x1 : Word) : Word :=
  (after (inExecute i 0x400014 { base x1 0 with z := z, n := n })).pc

/-! ## ALU instructions through Execute, one step (the examples of R260 to R274 and R283) -/

theorem test_execute_add : executed (.add 3 1 2) 5 12 = (17, false, false) := by decide +kernel
theorem test_execute_adds :
    executed (.adds 3 1 2) 1 0xFFFFFFFFFFFFFFFF = (0, true, false) := by decide +kernel
theorem test_execute_sub : executed (.sub 3 1 2) 5 7 = (0xFFFFFFFFFFFFFFFE, false, true) := by decide +kernel
theorem test_execute_subs : executed (.subs 31 1 2) 2 5 = (0xFFFFFFFFFFFFFFFD, false, true) := by
  decide +kernel
theorem test_execute_and : executed (.and 3 1 2) 0xF0F0 0x0FF0 = (0x00F0, false, false) := by decide +kernel
theorem test_execute_ands : executed (.ands 3 1 2) 0xF0 0x0F = (0, true, false) := by decide +kernel
theorem test_execute_orr : executed (.orr 3 1 2) 0xF0F0 0x0FF0 = (0xFFF0, false, false) := by decide +kernel
theorem test_execute_eor : executed (.eor 3 1 2) 0xF0F0 0x0FF0 = (0xFF00, false, false) := by decide +kernel
theorem test_execute_mul : executed (.mul 3 1 2) 0x100000000 0x100000000 = (0, true, false) := by
  decide +kernel
theorem test_execute_addi : executed (.addi 2 1 7) 5 0 = (12, false, false) := by decide +kernel
theorem test_execute_addis : executed (.addis 2 1 1) 0x7FFFFFFFFFFFFFFF 0 = (0x8000000000000000, false, true) := by
  decide +kernel
theorem test_execute_subi : executed (.subi 2 1 7) 5 0 = (0xFFFFFFFFFFFFFFFE, false, true) := by decide +kernel
theorem test_execute_subis : executed (.subis 1 1 1) 1 0 = (0, true, false) := by decide +kernel
theorem test_execute_lsl : executed (.lsl 2 1 63) 3 0 = (0x8000000000000000, false, true) := by decide +kernel
theorem test_execute_lsr : executed (.lsr 2 1 56) 0xBEEFEF00BEEFBEEF 0 = (0xBE, false, false) := by
  decide +kernel
theorem test_execute_movz : executed (.movz 1 3 0xFFFF) 0 0 = (0xFFFF000000000000, false, true) := by
  decide +kernel

/-- Vector V13, `1 << 64`, and V14, the shift by 64: shift amounts are taken modulo 64. -/
theorem test_alu_shift_by_64 : alu .shl 1 64 = 1 ∧ alu .shr 0xFFFFFFFFFFFFFFFF 64 = 0xFFFFFFFFFFFFFFFF := by
  decide

/-- Vector V16, last row: after the compare of the most negative number with 1, `LT` does not hold. -/
theorem test_cmp_overflow :
    ccHolds .lt (zeroFlag (alu .cmp 0x8000000000000000 1)) (negFlag (alu .cmp 0x8000000000000000 1)) = false ∧
    ccHolds .gt (zeroFlag (alu .cmp 0x8000000000000000 1)) (negFlag (alu .cmp 0x8000000000000000 1)) = true := by
  decide

/-! ## Branches through Execute, one step (vector V34: at `0x400010`, predicted `0x400014`) -/

theorem test_execute_b : branched (.b (-2)) false false 0 = 0x400008 := by decide +kernel
theorem test_execute_b_eq : branched (.bEq 2) true false 0 = 0x400018 ∧
    branched (.bEq (-2)) false false 0 = 0x400018 := by decide +kernel
theorem test_execute_b_ne : branched (.bNe (-2)) false false 0 = 0x400008 := by decide +kernel
theorem test_execute_b_ge : branched (.bGe 3) true false 0 = 0x40001C := by decide +kernel
theorem test_execute_b_lt : branched (.bLt 3) false true 0 = 0x40001C := by decide +kernel
theorem test_execute_b_gt : branched (.bGt 3) false false 0 = 0x40001C ∧
    branched (.bGt 3) true false 0 = 0x400018 := by decide +kernel
theorem test_execute_b_le : branched (.bLe 3) true false 0 = 0x40001C := by decide +kernel
theorem test_execute_cbz : branched (.cbz 1 2) false false 0 = 0x400018 ∧
    branched (.cbz 1 (-2)) false false 0 = 0x400008 := by decide +kernel
theorem test_execute_cbnz : branched (.cbnz 1 (-2)) false false 0x8000000000000000 = 0x400008 := by
  decide +kernel

/-- Vector V34 (a): the whole of a misprediction. -/
theorem test_mispredict :
    (after (inExecute (.bNe (-2)) 0x400014 { base 0 0 with feHalted := true })).pred =
      { ghr := 1, pht := [(4, 1)], btb := [(4, { tag := 0x400010, isCond := true, target := 0x400008 })] } ∧
    (after (inExecute (.bNe (-2)) 0x400014 { base 0 0 with feHalted := true })).ifde.flush = true ∧
    (after (inExecute (.bNe (-2)) 0x400014 { base 0 0 with feHalted := true })).feHalted = false := by
  decide +kernel

/-- Vector V34 (b): a correct prediction leaves `IFDE` and `PC` alone. -/
theorem test_correct_prediction :
    (after (inExecute (.bNe (-2)) 0x400008 { base 0 0 with feHalted := true })).ifde = IfDe.reset ∧
    (after (inExecute (.bNe (-2)) 0x400008 { base 0 0 with feHalted := true })).pc = 0x400018 := by
  decide +kernel

/-- Vector V34 (d): a stale snapshot is not used, the architectural flag is. -/
theorem test_branch_reads_flags :
    (after { inExecute (.bNe (-2)) 0x400014 (base 0 0) with
      deex := { (inExecute (.bNe (-2)) 0x400014 (base 0 0)).deex with z := true } }).pc = 0x400008 := by
  decide +kernel

/-! ## Loads and stores through Memory, one step (vector V35) -/

/-- The line of the block of `0x2000`. -/
def line2000 : Line :=
  { tag := 0x100, stamp := 1, bytes := [0, 0xBE, 0, 0, 0xFF, 0xFF, 0xFE, 0xFF] ++ List.replicate 24 0 }

/-- The block of `0x2000` in the data cache and in memory: `0xBE` at `0x2001`, `FF FF FE FF` from
`0x2004` on. -/
def block2000 : State :=
  { State.reset with
    mem := [(0x2001, 0xBE), (0x2004, 0xFF), (0x2005, 0xFF), (0x2006, 0xFE), (0x2007, 0xFF)]
    dc := { lines := [(0, line2000)], queries := [] }
    ts := 1 }

/-- A load or a store of `x[4]` in `EXMEM`, its address and its datum computed. -/
def inMemory (i : Instr) (a v : Word) (s : State) : State :=
  { s with
    exmem := { ExMem.reset with
      valid := true, kind := (recordOf i).kind, aluResult := a, storeData := v, dst := (recordOf i).dst,
      mem := (recordOf i).mem, wb := (recordOf i).wb } }

/-- The datum a load gives in one step. -/
def loadedBy (i : Instr) (a : Word) : Word := (after (inMemory i a 0 block2000)).memwb.memData

/-- The bytes `0x2004` to `0x2007` after a store in one step. -/
def storedBy (i : Instr) (a v : Word) : List Byte := memBytes (after (inMemory i a v block2000)).mem 0x2004 4

theorem test_load_ldur : loadedBy (.ldur 4 9 0) 0x2000 = 0xFFFEFFFF0000BE00 := by decide +kernel
theorem test_load_ldurw : loadedBy (.ldurw 4 9 0) 0x2004 = 0x00000000FFFEFFFF := by decide +kernel
theorem test_load_ldurh : loadedBy (.ldurh 4 9 0) 0x2005 = 0xFEFF := by decide +kernel
theorem test_load_ldurb : loadedBy (.ldurb 4 9 0) 0x2001 = 0xBE := by decide +kernel
theorem test_store_stur : storedBy (.stur 4 9 0) 0x2004 0x1122334455667788 = [0x88, 0x77, 0x66, 0x55] := by
  decide +kernel
theorem test_store_sturw : storedBy (.sturw 4 9 0) 0x2004 0xFFFFFFFF55667788 = [0x88, 0x77, 0x66, 0x55] := by
  decide +kernel
theorem test_store_sturh : storedBy (.sturh 4 9 0) 0x2006 0x5566BEEF = [0xFF, 0xFF, 0xEF, 0xBE] := by
  decide +kernel
theorem test_store_sturb : storedBy (.sturb 4 9 0) 0x2005 0xBEEF = [0xFF, 0xEF, 0xFE, 0xFF] := by
  decide +kernel

/-- Vector V35, "store miss, first cycle". -/
theorem test_store_miss :
    let t := after (inMemory (.stur 4 9 0) 0x1000 0x11 block2000)
    t.dcacheStalled = true ∧ t.dc.queries = [{ base := 0x1000, rem := 9 }] ∧ t.mem = block2000.mem ∧
      t.memwb = bubbleMemWb .memBubble 0 := by decide +kernel

/-- Vector V20 and V35, "block cross": `0x101D` with 8 bytes leaves its block. -/
theorem test_block_cross :
    (after (inMemory (.ldur 4 9 0) 0x101D 0 block2000)).status = .fatal (.blockCross 0x101D) := by
  decide +kernel

/-! ## `HLT` and `NOP`, one step (vectors V33, V36) -/

theorem test_decode_stage_hlt : (after (State.reset.withFetchWord 32 0xD4400000)).deHalted = true := by
  decide +kernel

theorem test_halt_retires :
    (after { State.reset with memHalted := true, memwb := { MemWb.reset with valid := true, kind := .other } }).status
      = .halted := by decide +kernel

theorem test_nop_retires :
    let t := after { State.reset with memwb := { MemWb.reset with valid := true, kind := .other } }
    t.status = .running ∧ t.retiredCount = 1 ∧ t.regs = State.reset.regs := by decide +kernel

/-! ## Units (vectors V5, V20 to V24, V33, V36) -/

/-- Vector V5: the first cycle after reset misses at `0x400000`, and the tick leaves 9. -/
theorem test_first_cycle :
    (after State.reset).ic.queries = [{ base := 0x400000, rem := 9 }] ∧
    (after State.reset).ifde.memStall = true ∧ (after State.reset).pc = 0x400000 := by decide +kernel

/-- Vector V20. -/
theorem test_geometry :
    blockNumber defaultParams 0x40005C = 0x20002 ∧ setIndex defaultParams .ic 0x40005C = 2 ∧
    blockOffset defaultParams 0x40005C = 28 ∧ setIndex defaultParams .dc 0x3008 = 128 ∧
    crossesBlock defaultParams 0x101D 8 = true ∧ crossesBlock defaultParams 0x1018 8 = false := by decide

/-- Vector V21, step 1. -/
theorem test_update_once :
    predUpdate true true 0x400010 0x400008 State.reset.pred =
      { ghr := 1, pht := [(4, 1)], btb := [(4, { tag := 0x400010, isCond := true, target := 0x400008 })] } := by
  decide

/-- Vector V23. -/
theorem test_forward_both :
    let s := { State.reset with
      deex := deExOf (recordOf (.add 3 2 1)) State.reset
      exmem := { ExMem.reset with valid := true, aluResult := 12, dst := 2, wb := (recordOf (.addi 2 1 7)).wb }
      memwb := { MemWb.reset with valid := true, aluResult := 5, dst := 1, wb := (recordOf (.movz 1 0 5)).wb } }
    (hazardUnit s).deex.valA = 12 ∧ (hazardUnit s).deex.valB = 5 ∧ (hazardUnit s).dataStalled = false := by
  decide +kernel

/-- Vector V36, "zero register": counted, and no register changes. -/
theorem test_write_to_zero_register :
    let t := after { State.reset with
      memwb := { MemWb.reset with valid := true, aluResult := 9, wb := (recordOf (.movz 31 0 9)).wb } }
    t.regs = State.reset.regs ∧ t.retiredCount = 1 := by decide +kernel

/-- The interface of the host: the step after `withFetchWord` decodes the word. -/
theorem test_fetch_word :
    (after (State.reset.withFetchWord 32 0x91001C22)).deex.dst = 2 ∧
    (after (State.reset.withFetchWord 32 0x91001C22)).deex.imm = 7 := by decide +kernel

theorem test_reset_memory_wf : Memory.wf State.reset.mem := by decide

/-! ## Witnesses: states that meet the hypotheses of the obligations, all of one together -/

/-! ### Encoding -/

theorem witness_DecodeOfEncode :
    (Instr.lsl 2 1 1).wellFormed = true ∧ (Instr.lsl 2 1 63).wellFormed = true := by decide

theorem witness_EncodeOfDecode : decodeWord 0xD340FC22 = .ok (.lsr 2 1 0) := by decide

theorem witness_StepRunsDecoded :
    decodeWord (State.reset.withFetchWord 32 0x8B020023).ifde.word = .ok (.add 3 1 2) ∧
      decodeTableWord 32 0x8B020023 = some (.add 3 1 2) := by decide +kernel

/-! ### States -/

/-- The line of the block of `0x1000`. -/
def line1000 : Line := { tag := 128, stamp := 1, bytes := 0x11 :: List.replicate 31 0 }

/-- An instruction waits in `IFDE` with nothing around it; the block of `0x1000` is in the data cache;
`x[1]` holds `0x1000`. -/
def alone : State :=
  { writeReg 1 0x1000 (writeReg 2 7 State.reset) with
    ifde := { IfDe.reset with valid := true, word := 0x8B020023, pc := 0x400000, predNext := 0x400004 }
    pc := 0x400004
    mem := [(0x1000, 0x11)]
    dc := { lines := [(1024, line1000)], queries := [] }
    ts := 1 }

theorem tableGet_one {α : Type} {k i : Nat} {v w : α} (h : tableGet [(k, v)] i = some w) : i = k ∧ w = v := by
  simp only [tableGet] at h
  split at h
  · exact ⟨‹_›, (Option.some.inj h).symm⟩
  · cases h

theorem alone_issues : IssuesAlone alone := by
  simp only [IssuesAlone, IfdeReady, PipeEmpty, SlotIdle, BackEndOpen, NoQueries, FetchMisses]
  decide +kernel

theorem alone_writeThrough : WriteThrough alone := by
  intro i l h
  obtain ⟨-, rfl⟩ := tableGet_one h
  decide +kernel

/-- A state with the data cache of `alone`, or an empty one, and an empty instruction cache. -/
theorem cacheInv_of {s : State} (hi : s.ic = { lines := [], queries := [] })
    (hd : s.dc = { lines := [(1024, line1000)], queries := [] } ∨ s.dc = { lines := [], queries := [] })
    (ht : s.ts = 1) : CacheInv s := by
  obtain hd | hd := hd
  · refine ⟨⟨?_, ?_⟩, ⟨?_, ?_⟩, ⟨?_, ?_⟩, ⟨?_, ?_⟩, ?_⟩
    · intro i l h; simp [getCache, hi, tableGet] at h
    · intro i j l l' h; simp [getCache, hi, tableGet] at h
    · intro i l h
      simp only [getCache, hd] at h
      obtain ⟨rfl, rfl⟩ := tableGet_one h
      rw [ht]
      decide +kernel
    · intro i j l l' h h' _
      simp only [getCache, hd] at h h'
      rw [(tableGet_one h).1, (tableGet_one h').1]
    · simp [getCache, hi]
    · simp [getCache, hi]
    · simp [getCache, hd]
    · simp [getCache, hd]
    · intro i j l l' h; simp [hi, tableGet] at h
  · refine ⟨⟨?_, ?_⟩, ⟨?_, ?_⟩, ⟨?_, ?_⟩, ⟨?_, ?_⟩, ?_⟩
    · intro i l h; simp [getCache, hi, tableGet] at h
    · intro i j l l' h; simp [getCache, hi, tableGet] at h
    · intro i l h; simp [getCache, hd, tableGet] at h
    · intro i j l l' h; simp [getCache, hd, tableGet] at h
    · simp [getCache, hi]
    · simp [getCache, hi]
    · simp [getCache, hd]
    · simp [getCache, hd]
    · intro i j l l' h; simp [hi, tableGet] at h

theorem alone_cacheInv : CacheInv alone := cacheInv_of rfl (.inl rfl) rfl

theorem pcInv_of {s : State} (hb : s.pred.btb = []) (h1 : s.pc.toNat % 4 = 0)
    (h2 : s.ifde.valid = true → s.ifde.pc.toNat % 4 = 0)
    (h3 : s.deex.valid = true → s.deex.pc.toNat % 4 = 0) : PcInv s :=
  ⟨h1, h2, h3, fun i e h => by simp [hb, tableGet] at h⟩

/-- The halt instruction waits in `IFDE`. -/
def haltAlone : State := { alone with ifde := { alone.ifde with word := 0xD4400000 }, feHalted := true }

theorem haltAlone_issues : HaltIssuesAlone haltAlone := by
  simp only [HaltIssuesAlone, IfdeReady, PipeEmpty, SlotIdle, BackEndOpen, NoQueries]
  decide +kernel

/-- The halt instruction stands in `MEMWB`: the last cycle of a run. -/
def halting : State :=
  { haltAlone with
    deex := { deExOf (recordOf (.hlt 0)) haltAlone with valid := true }
    exmem := { ExMem.reset with valid := true, kind := .other }
    memwb := { MemWb.reset with valid := true, kind := .other }
    deHalted := true, exHalted := true, memHalted := true }

theorem halting_inv : HaltInv halting ∧ OneQueryInv halting := by
  simp only [HaltInv, IfdeReady, OneQueryInv]
  decide +kernel

/-- `B.NE -2` at `0x400010` in `DEEX`, predicted to go to `pn`, a word fetched behind it. -/
def branching (pn : Word) : State :=
  { inExecute (.bNe (-2)) pn alone with
    ifde := { alone.ifde with pc := 0x400014, word := 0xD503201F }, pc := 0x400018 }

/-- The same with the fetch behind the branch a miss on its way. -/
def branchingMiss : State :=
  { branching 0x400014 with
    ifde := { (branching 0x400014).ifde with memStall := true, pc := 0x400020 }, pc := 0x400020
    ic := { lines := [], queries := [{ base := 0x400020, rem := 9 }] } }

/-- A load or a store in `EXMEM` at an address. -/
def accessing (i : Instr) (a : Word) : State := inMemory i a 0x2233 alone

/-- The same with an empty data cache. -/
def missing (i : Instr) (a : Word) : State := { accessing i a with dc := { lines := [], queries := [] } }

/-- A data miss on its way. -/
def waiting : State :=
  { missing (.stur 3 1 0) 0x1000 with
    dcacheStalled := true, exmemCkpt := (missing (.stur 3 1 0) 0x1000).exmem
    dc := { lines := [], queries := [{ base := 0x1000, rem := 4 }] } }

/-- A load in `EXMEM` and its consumer in `DEEX`. -/
def loadUse : State := { accessing (.ldur 4 1 0) 0x1000 with deex := deExOf (recordOf (.add 5 4 4)) alone }

/-- An instruction that writes `r` and the flags in `MEMWB`. -/
def retiring (r : Reg) : State :=
  { alone with
    memwb := { MemWb.reset with
      valid := true, aluResult := 0x11, dst := r, newZ := true
      wb := { regWrite := true, memToReg := false, flagsUpdate := true } } }

/-- An ALU instruction that writes `x[4]` and the flags in `EXMEM`, its consumer in `DEEX`. -/
def forwarding (i : Instr) : State :=
  { alone with
    deex := deExOf (recordOf i) alone
    exmem := { ExMem.reset with
      valid := true, aluResult := 12, dst := 4, newZ := true
      wb := { regWrite := true, memToReg := false, flagsUpdate := true } } }

/-- The state with a squash requested for the word in `IFDE`. -/
def squashed (s : State) : State := { s with ifde := { s.ifde with squash := true } }

/-! ### The step and its invariants -/

theorem witness_StoppedMachineStays :
    halting.status = .running ∧ (after halting).status ≠ .running ∧
      (after (accessing (.ldur 4 1 0) 0x101D)).status ≠ .running := by decide +kernel

theorem witness_StepKeepsPcAligned :
    PcInv (branching 0x400014) ∧ step (branching 0x400014) = .next (after (branching 0x400014)) :=
  ⟨pcInv_of rfl (by decide +kernel) (fun _ => by decide +kernel) (fun _ => by decide +kernel), step_after _⟩

theorem witness_StepKeepsCachesWellFormed :
    CacheInv (accessing (.stur 3 1 0) 0x1000) ∧ CacheInv (missing (.stur 3 1 0) 0x1000) ∧
      step (accessing (.stur 3 1 0) 0x1000) = .next (after (accessing (.stur 3 1 0) 0x1000)) :=
  ⟨cacheInv_of rfl (.inl rfl) rfl, cacheInv_of rfl (.inr rfl) rfl, step_after _⟩

theorem accessing_writeThrough (i : Instr) (a : Word) : WriteThrough (accessing i a) := alone_writeThrough

theorem witness_StepKeepsWriteThrough :
    CacheInv (accessing (.stur 3 1 0) 0x1000) ∧ WriteThrough (accessing (.stur 3 1 0) 0x1000) ∧
      step (accessing (.stur 3 1 0) 0x1000) = .next (after (accessing (.stur 3 1 0) 0x1000)) :=
  ⟨cacheInv_of rfl (.inl rfl) rfl, accessing_writeThrough _ _, step_after _⟩

theorem witness_StepKeepsOneQuery :
    OneQueryInv waiting ∧ OneQueryInv branchingMiss ∧ step waiting = .next (after waiting) := by
  refine ⟨?_, ?_, step_after _⟩ <;> simp only [OneQueryInv] <;> decide +kernel

theorem witness_StepKeepsHaltCascade : HaltInv halting ∧ step halting = .next (after halting) :=
  ⟨halting_inv.1, step_after _⟩

theorem witness_StepKeepsMemoryForm :
    Memory.wf (accessing (.stur 3 1 0) 0x1000).mem ∧
      step (accessing (.stur 3 1 0) 0x1000) = .next (after (accessing (.stur 3 1 0) 0x1000)) :=
  ⟨by decide +kernel, step_after _⟩

theorem witness_NoInternalFault :
    CacheInv alone ∧ alone.status = .running ∧ step alone = .next (after alone) :=
  ⟨alone_cacheInv, rfl, step_after _⟩

theorem witness_BlockCrossOnlyInMemory :
    PcInv (accessing (.ldur 4 1 0) 0x1019) ∧ (accessing (.ldur 4 1 0) 0x1019).status = .running ∧
      step (accessing (.ldur 4 1 0) 0x1019) = .next (after (accessing (.ldur 4 1 0) 0x1019)) ∧
      (after (accessing (.ldur 4 1 0) 0x1019)).status = .fatal (.blockCross 0x1019) :=
  ⟨pcInv_of rfl (by decide +kernel) (fun _ => by decide +kernel) (fun h => absurd h (by decide +kernel)), rfl,
    step_after _, by decide +kernel⟩

/-! ### Who changes what -/

/-- Both clauses: a destination, and the zero register. -/
theorem witness_RegistersChangeByRetiring :
    (retiring 4).status = .running ∧ step (retiring 4) = .next (after (retiring 4)) ∧
      (Retires (retiring 4) ∧ (retiring 4).memwb.wb.regWrite = true ∧ (4 : Reg) = (retiring 4).memwb.dst ∧
        (4 : Reg) ≠ zeroReg) ∧
      step (retiring 31) = .next (after (retiring 31)) ∧
      ¬(Retires (retiring 31) ∧ (retiring 31).memwb.wb.regWrite = true ∧
        (31 : Reg) = (retiring 31).memwb.dst ∧ (31 : Reg) ≠ zeroReg) := by
  refine ⟨rfl, step_after _, ?_, step_after _, ?_⟩ <;> simp only [Retires] <;> decide +kernel

theorem witness_FlagsAndCountChangeByRetiring :
    (retiring 4).status = .running ∧ step (retiring 4) = .next (after (retiring 4)) ∧
      (Retires (retiring 4) ∧ (retiring 4).memwb.wb.flagsUpdate = true) ∧
      step alone = .next (after alone) ∧ ¬Retires alone := by
  refine ⟨rfl, step_after _, ?_, step_after _, ?_⟩ <;> simp only [Retires] <;> decide +kernel

/-- Both clauses: a cycle that runs to its end, and one that faults. -/
theorem witness_CycleCountGrows :
    alone.status = .running ∧ (after alone).status = .running ∧ (after alone).cycleCount = 1 ∧
      (after (accessing (.ldur 4 1 0) 0x1019)).status = .fatal (.blockCross 0x1019) ∧
      (after (accessing (.ldur 4 1 0) 0x1019)).cycleCount = 0 := by decide +kernel

theorem witness_MemoryChangesByStores :
    CacheInv (accessing (.stur 3 1 0) 0x1000) ∧ WriteThrough (accessing (.stur 3 1 0) 0x1000) ∧
      (accessing (.stur 3 1 0) 0x1000).status = .running ∧
      step (accessing (.stur 3 1 0) 0x1000) = .next (after (accessing (.stur 3 1 0) 0x1000)) ∧
      memRead (after (accessing (.stur 3 1 0) 0x1000)).mem 0x1001 ≠
        memRead (accessing (.stur 3 1 0) 0x1000).mem 0x1001 :=
  ⟨cacheInv_of rfl (.inl rfl) rfl, accessing_writeThrough _ _, rfl, step_after _, by decide +kernel⟩

theorem witness_PredictorChangesByBranches :
    step (branching 0x400014) = .next (after (branching 0x400014)) ∧
      (after (branching 0x400014)).pred ≠ (branching 0x400014).pred := ⟨step_after _, by decide +kernel⟩

/-- A step that fetches: the word of `NOP` at `0x400000` is in the instruction cache. -/
def fetching : State :=
  { State.reset with
    mem := [(0x400000, 0x1F), (0x400001, 0x20), (0x400002, 0x03), (0x400003, 0xD5)]
    ic := { lines := [(0, { tag := 0x20000, stamp := 1,
                            bytes := [0x1F, 0x20, 0x03, 0xD5] ++ List.replicate 28 0 })], queries := [] }
    ts := 1 }

/-- Both clauses: Fetch, and the repair. -/
theorem witness_PcWriters :
    step fetching = .next (after fetching) ∧ (after fetching).pc ≠ fetching.pc ∧
      step (branching 0x400014) = .next (after (branching 0x400014)) ∧
      (after (branching 0x400014)).pc ≠ (branching 0x400014).pc :=
  ⟨step_after _, by decide +kernel, step_after _, by decide +kernel⟩

/-- Both clauses: the last cycle of a run, and a cycle that is not. -/
theorem witness_HaltEndsTheRun :
    (HaltInv halting ∧ OneQueryInv halting ∧ halting.status = .running ∧ halting.memHalted = true) ∧
      HaltInv alone ∧ OneQueryInv alone ∧ alone.status = .running ∧ alone.memHalted = false := by
  refine ⟨⟨halting_inv.1, halting_inv.2, rfl, rfl⟩, ?_⟩
  simp only [HaltInv, IfdeReady, OneQueryInv]
  decide +kernel

/-! ### Instructions issued alone -/

theorem witness_RegisterAluCompletes : IssuesAlone alone := alone_issues
theorem witness_RegisterAluFlagsCompletes : IssuesAlone alone := alone_issues
theorem witness_ImmediateAluCompletes : IssuesAlone alone := alone_issues
theorem witness_ImmediateAluFlagsCompletes : IssuesAlone alone := alone_issues
theorem witness_NopCompletes : IssuesAlone alone := alone_issues

/-- Each width at the last address of its block that it may have. -/
theorem hits_at_block_end :
    DataHits alone (effAddr alone 1 24) 8 1024 line1000 ∧ DataHits alone (effAddr alone 1 28) 4 1024 line1000 ∧
      DataHits alone (effAddr alone 1 30) 2 1024 line1000 ∧
      DataHits alone (effAddr alone 1 31) 1 1024 line1000 := by
  simp only [DataHits]
  decide +kernel

theorem witness_LoadsComplete :
    IssuesAlone alone ∧ WriteThrough alone ∧ DataHits alone (effAddr alone 1 24) 8 1024 line1000 ∧
      DataHits alone (effAddr alone 1 28) 4 1024 line1000 ∧ DataHits alone (effAddr alone 1 30) 2 1024 line1000 ∧
      DataHits alone (effAddr alone 1 31) 1 1024 line1000 :=
  ⟨alone_issues, alone_writeThrough, hits_at_block_end⟩

theorem witness_StoresComplete :
    IssuesAlone alone ∧ WriteThrough alone ∧ DataHits alone (effAddr alone 1 24) 8 1024 line1000 ∧
      DataHits alone (effAddr alone 1 28) 4 1024 line1000 ∧ DataHits alone (effAddr alone 1 30) 2 1024 line1000 ∧
      DataHits alone (effAddr alone 1 31) 1 1024 line1000 :=
  ⟨alone_issues, alone_writeThrough, hits_at_block_end⟩

/-- Each width at the first address of a block that it may not have. -/
theorem witness_CrossingAccessFaults :
    IssuesAlone alone ∧ defaultParams.block < (effAddr alone 1 25).toNat % defaultParams.block + 8 ∧
      defaultParams.block < (effAddr alone 1 29).toNat % defaultParams.block + 4 ∧
      defaultParams.block < (effAddr alone 1 31).toNat % defaultParams.block + 2 :=
  ⟨alone_issues, by decide +kernel⟩

theorem witness_BranchCompletes : IssuesAlone alone ∧ alone.ifde.pc.toNat % 4 = 0 :=
  ⟨alone_issues, by decide +kernel⟩

theorem witness_CondBranchCompletes : IssuesAlone alone ∧ alone.ifde.pc.toNat % 4 = 0 :=
  ⟨alone_issues, by decide +kernel⟩

theorem witness_CompareBranchCompletes : IssuesAlone alone ∧ alone.ifde.pc.toNat % 4 = 0 :=
  ⟨alone_issues, by decide +kernel⟩

theorem witness_HaltCompletes : HaltIssuesAlone haltAlone := haltAlone_issues

/-! ### The stages -/

theorem alone_ready : IfdeReady alone ∧ PipeEmpty alone ∧ BackEndOpen alone :=
  ⟨alone_issues.1, alone_issues.2.1, alone_issues.2.2.1⟩

/-- `X2`, a source of the `ADD X3, X1, X2` that Decode takes, retires in the same cycle. -/
theorem retiring_decodeOpen : DecodeOpen (retiring 2) := by
  simp only [DecodeOpen, IfdeReady, DecodeGated, MemoryFaults, MemoryRuns]
  decide +kernel

/-- Both parts: a source register that retires in the same cycle, and an empty pipeline. -/
theorem witness_DecodeFillsDeEx :
    (DecodeOpen (retiring 2) ∧ Retires (retiring 2) ∧ (retiring 2).memwb.wb.regWrite = true ∧
      (retiring 2).memwb.dst ≠ zeroReg ∧ (recordOf (.add 3 1 2)).srcB = (retiring 2).memwb.dst) ∧
    IfdeReady alone ∧ PipeEmpty alone ∧ BackEndOpen alone := by
  refine ⟨⟨retiring_decodeOpen, ?_⟩, alone_ready⟩
  simp only [Retires]
  decide +kernel

/-- Vector V33, "same-cycle register write". -/
theorem test_decode_same_cycle_write :
    (after (retiring 2)).deex.valA = 0x1000 ∧ (after (retiring 2)).deex.valB = 0x11 := by decide +kernel

theorem witness_UndecodableWordFaults :
    (let s := { retiring 2 with ifde := { alone.ifde with word := 0 } }
     DecodeOpen s ∧ decodeWord s.ifde.word = .error .unmatched) ∧
    let s := { alone with ifde := { alone.ifde with word := 0 } }
    IfdeReady s ∧ PipeEmpty s ∧ BackEndOpen s ∧ decodeWord s.ifde.word = .error .unmatched := by
  refine ⟨?_, alone_ready.1, alone_ready.2.1, alone_ready.2.2, by decide⟩
  simp only [DecodeOpen, IfdeReady, DecodeGated, MemoryFaults, MemoryRuns]
  decide +kernel

/-- Each request, Execute's in this very cycle among them, with Decode open; and a squash behind each gate:
a data miss, a load-use stall, a fault in Memory, the passed halt. -/
theorem witness_SquashedWordNotDecoded :
    (let s := { alone with ifde := { alone.ifde with squash := true, word := 0 } }
     s.status = .running ∧ s.ifde.valid = true ∧ s.ifde.squash = true ∧ step s = .next (after s) ∧
       ¬DecodeGated s) ∧
    (let s := { alone with ifde := { alone.ifde with flush := true, word := 0 } }
     s.status = .running ∧ s.ifde.valid = true ∧ s.ifde.flush = true ∧ step s = .next (after s) ∧
       ¬DecodeGated s) ∧
    (let s := branching 0x400014
     s.status = .running ∧ s.ifde.valid = true ∧ (beforeDecode s).ifde.flush = true ∧
       step s = .next (after s) ∧ ¬DecodeGated s) ∧
    ∀ s ∈ [waiting, loadUse, accessing (.ldur 4 1 0) 0x1019, halting],
      (squashed s).status = .running ∧ (squashed s).ifde.valid = true ∧ (squashed s).ifde.squash = true ∧
        step (squashed s) = .next (after (squashed s)) ∧ DecodeGated (squashed s) := by
  refine ⟨⟨rfl, rfl, rfl, step_after _, ?_⟩, ⟨rfl, rfl, rfl, step_after _, ?_⟩,
    ⟨rfl, rfl, by decide +kernel, step_after _, ?_⟩, ?_⟩
  iterate 3
    · simp only [DecodeGated, MemoryFaults, MemoryRuns]
      decide +kernel
  · simp only [List.forall_mem_cons, DecodeGated, MemoryFaults, MemoryRuns]
    refine ⟨⟨rfl, rfl, rfl, step_after _, ?_⟩, ⟨rfl, rfl, rfl, step_after _, ?_⟩,
      ⟨rfl, rfl, rfl, step_after _, ?_⟩, ⟨rfl, rfl, rfl, step_after _, ?_⟩, by simp⟩ <;> decide +kernel

/-- Fetch is open where none of its gates holds, Memory works on nothing and the word in `IFDE` decodes. -/
theorem fetchOpen_of {s : State} (h1 : s.status = .running) (h2 : s.feHalted = false)
    (h3 : (beforeDecode s).dcacheStalled = false) (h4 : (hazardUnit s).dataStalled = false)
    (h5 : (beforeDecode s).controlStalled = false) (h6 : s.exmem.valid = false)
    (h7 : ∃ i, decodeWord s.ifde.word = .ok i) : FetchOpen s :=
  ⟨h1, h2, h3, h4, h5, fun h => by simp [MemoryFaults, MemoryRuns, h6] at h, fun _ => h7⟩

/-- The steady state: the word in `IFDE` is decoded, an older one retires, and the next fetch hits. -/
def streaming : State :=
  { fetching with
    ifde := { IfDe.reset with valid := true, word := 0x8B020023, pc := 0x3FFFFC, predNext := 0x400000 }
    memwb := (retiring 2).memwb }

theorem streaming_open : DecodeOpen streaming ∧ FetchOpen streaming := by
  refine ⟨?_, fetchOpen_of rfl rfl (by decide +kernel) (by decide +kernel) (by decide +kernel) rfl
    ⟨.add 3 1 2, by decide⟩⟩
  simp only [DecodeOpen, IfdeReady, DecodeGated, MemoryFaults, MemoryRuns]
  decide +kernel

/-- The steady state, and a fetch with nothing in the pipeline. -/
theorem witness_FetchDelivers :
    ∃ j l, ∀ s ∈ [streaming, { alone with pc := 0x400000, ic := fetching.ic, mem := fetching.mem }],
      FetchOpen s ∧ s.ic.queries = [] ∧ s.pc.toNat % 4 = 0 ∧
      cacheLookup defaultParams .ic s.pc s = some (j, l) ∧
      l.bytes = memBytes s.mem (tagBase defaultParams l.tag) defaultParams.block := by
  refine ⟨0, { tag := 0x20000, stamp := 1, bytes := [0x1F, 0x20, 0x03, 0xD5] ++ List.replicate 28 0 }, ?_⟩
  simp only [List.forall_mem_cons]
  exact ⟨⟨streaming_open.2, by decide +kernel⟩,
    ⟨fetchOpen_of rfl rfl (by decide +kernel) (by decide +kernel) (by decide +kernel) rfl
      ⟨.add 3 1 2, by decide⟩, by decide +kernel⟩, by simp⟩

/-- A steady-state fetch: `NOP` arrives with the flag and the register that retire in the same cycle. -/
theorem test_streaming :
    let t := after streaming
    t.ifde.word = 0xD503201F ∧ t.ifde.z = true ∧ t.pc = 0x400004 ∧ t.deex.valB = 0x11 := by decide +kernel

/-- `alone` while its fetch waits, the query with `k` cycles to go. -/
def fetchWaiting (k : Nat) : State :=
  { alone with ic := { lines := [], queries := [{ base := 0x400000, rem := k }] } }

/-- The first cycle of the miss, a later one and the last; `IFDE` waiting with Decode open and gated. -/
theorem witness_FetchMissStalls :
    (FetchOpen alone ∧ crossesBlock defaultParams alone.pc 4 = false ∧ alone.ic.queries = [] ∧
      cacheLookup defaultParams .ic alone.pc alone = none) ∧
    (∀ k ∈ [missLatency, 1], FetchOpen (fetchWaiting k) ∧
      (fetchWaiting k).ic.queries = [{ base := blockBase defaultParams (fetchWaiting k).pc, rem := k }] ∧
      0 < k ∧ cacheLookup defaultParams .ic (fetchWaiting k).pc (fetchWaiting k) = none) ∧
    (∀ s ∈ [alone, loadUse],
      let u := { s with ifde := { s.ifde with memStall := true } }
      u.status = .running ∧ u.ifde.valid = true ∧ u.ifde.memStall = true ∧ u.ifde.squash = false ∧
        (beforeDecode u).ifde.flush = false ∧ step u = .next (after u)) ∧
    ¬DecodeGated { alone with ifde := { alone.ifde with memStall := true } } ∧
    DecodeGated { loadUse with ifde := { loadUse.ifde with memStall := true } } := by
  have hd : ∃ i, decodeWord alone.ifde.word = .ok i := ⟨.add 3 1 2, by decide⟩
  refine ⟨⟨fetchOpen_of rfl rfl (by decide +kernel) (by decide +kernel) (by decide +kernel) rfl hd,
    by decide +kernel⟩, ?_, ?_, ?_⟩
  · simp only [List.forall_mem_cons]
    exact ⟨⟨fetchOpen_of rfl rfl (by decide +kernel) (by decide +kernel) (by decide +kernel) rfl hd,
      by decide +kernel⟩, ⟨fetchOpen_of rfl rfl (by decide +kernel) (by decide +kernel) (by decide +kernel)
      rfl hd, by decide +kernel⟩, by simp⟩
  · simp only [List.forall_mem_cons]
    refine ⟨⟨?_, ?_, ?_, ?_, ?_, step_after _⟩, ⟨?_, ?_, ?_, ?_, ?_, step_after _⟩, by simp⟩ <;>
      decide +kernel
  · simp only [DecodeGated, MemoryFaults, MemoryRuns]
    decide +kernel

theorem witness_LoadUseStallsOnce :
    BackEndOpen loadUse ∧ loadUse.dc.queries = [] ∧ loadUse.exmem.valid = true ∧
      isBubble loadUse.exmem.kind = false ∧ loadUse.exmem.mem.memRead = true ∧
      loadUse.exmem.wb.regWrite = true ∧ loadUse.exmem.wb.memToReg = true ∧ loadUse.exmem.dst ≠ zeroReg ∧
      DataHits loadUse loadUse.exmem.aluResult (widthBytes loadUse.exmem.mem.width) 1024 line1000 ∧
      loadUse.deex.valid = true ∧ isBubble loadUse.deex.kind = false ∧
      (needsA loadUse.deex.layout = true ∧ loadUse.deex.srcA = loadUse.exmem.dst) ∧
      (needsB loadUse.deex.layout = true ∧ loadUse.deex.srcB = loadUse.exmem.dst) := by
  simp only [BackEndOpen, DataHits]
  decide +kernel

theorem witness_DataMissFreezes :
    ∃ q, waiting.status = .running ∧ waiting.memHalted = false ∧ waiting.dcacheStalled = true ∧
      waiting.exmem.valid = true ∧ waiting.exmem = waiting.exmemCkpt ∧ passesThrough waiting.exmem = false ∧
      crossesBlock defaultParams waiting.exmem.aluResult (widthBytes waiting.exmem.mem.width) = false ∧
      pendingQuery defaultParams .dc waiting.exmem.aluResult waiting = some q :=
  ⟨{ base := 0x1000, rem := 4 }, by decide +kernel⟩

/-- A load and a store, at the end of their block. -/
theorem witness_DataMissCompletes :
    ([missing (.ldurw 4 1 0) 0x101C, missing (.stur 3 1 0) 0x1018].all fun s =>
      s.status = .running ∧ s.memHalted = false ∧ s.dcacheStalled = false ∧ s.exmem.valid = true ∧
      isBubble s.exmem.kind = false ∧ (s.exmem.mem.memRead = true ∨ s.exmem.mem.memWrite = true) ∧
      crossesBlock defaultParams s.exmem.aluResult (widthBytes s.exmem.mem.width) = false ∧
      s.dc.queries = [] ∧ cacheLookup defaultParams .dc s.exmem.aluResult s = none) = true ∧
    QueriesInv defaultParams .ic (missing (.ldurw 4 1 0) 0x101C) ∧
    QueriesInv defaultParams .ic (missing (.stur 3 1 0) 0x1018) :=
  ⟨by decide +kernel, (cacheInv_of rfl (.inr rfl) rfl).2.2.1, (cacheInv_of rfl (.inr rfl) rfl).2.2.1⟩

/-- Either form of the last hypothesis: no miss outstanding, and a fetch miss behind the branch. -/
theorem witness_MispredictionRepair :
    let s := branching 0x400014
    (BackEndOpen s ∧ SlotIdle s.exmem.valid s.exmem.kind ∧ SlotIdle s.memwb.valid s.memwb.kind ∧ NoQueries s ∧
      s.ifde.valid = true ∧ s.deex.valid = true ∧ s.deex.kind = .control ∧ actualNext s ≠ s.deex.predNext) ∧
    let t := branchingMiss
    BackEndOpen t ∧ SlotIdle t.exmem.valid t.exmem.kind ∧ SlotIdle t.memwb.valid t.memwb.kind ∧
      (OneQueryInv t ∧ t.dc.queries = []) ∧ t.ifde.valid = true ∧ t.deex.valid = true ∧
      t.deex.kind = .control ∧ actualNext t ≠ t.deex.predNext := by
  simp only [BackEndOpen, SlotIdle, NoQueries, OneQueryInv]
  decide +kernel

theorem witness_CorrectPrediction :
    let s := branching 0x400008
    BackEndOpen s ∧ SlotIdle s.exmem.valid s.exmem.kind ∧ SlotIdle s.memwb.valid s.memwb.kind ∧
      IfdeReady s ∧ decodeWord s.ifde.word = .ok .nop ∧ s.deex.valid = true ∧ s.deex.kind = .control ∧
      actualNext s = s.deex.predNext := by
  simp only [BackEndOpen, SlotIdle, IfdeReady]
  decide +kernel

/-! ### Units -/

/-- Slot `a` and slot `b`. -/
theorem witness_ForwardsFromExMem :
    let s := forwarding (.add 5 4 4)
    s.deex.valid = true ∧ isBubble s.deex.kind = false ∧ s.exmem.valid = true ∧
      isBubble s.exmem.kind = false ∧ s.exmem.wb.regWrite = true ∧ s.exmem.dst ≠ zeroReg ∧
      s.exmem.mem.memRead = false ∧ (needsA s.deex.layout = true ∧ s.deex.srcA = s.exmem.dst) ∧
      (needsB s.deex.layout = true ∧ s.deex.srcB = s.exmem.dst) := by decide +kernel

/-- Vector V26: the load in `EXMEM` and an older instruction in `MEMWB` write the same register. -/
def hidden : State := { loadUse with memwb := (retiring 4).memwb }

/-- Vector V27 (a): the zero register as a source, and an instruction in `EXMEM` that writes it. -/
def zeroSource : State :=
  { forwarding (.add 5 31 4) with exmem := { (forwarding (.add 5 31 4)).exmem with dst := 31 } }

/-- `MEMWB` writes the register of slot `b` of `ADD X5, X31, X4`, and not that of slot `a`; a load in `EXMEM`
writes both slots' register, and `MEMWB` too; an ALU instruction in `EXMEM` does; one writes the zero
register, which slot `a` reads. -/
theorem witness_ForwardsFromMemWb :
    (let s := { retiring 4 with deex := deExOf (recordOf (.add 5 31 4)) alone }
     s.deex.valid = true ∧ isBubble s.deex.kind = false ∧ s.exmem.valid = false ∧
       (needsB s.deex.layout = true ∧ s.deex.srcB ≠ zeroReg ∧ s.memwb.valid = true ∧
         isBubble s.memwb.kind = false ∧ s.memwb.wb.regWrite = true ∧ s.memwb.dst = s.deex.srcB) ∧
       s.deex.srcA = zeroReg) ∧
    ([hidden, forwarding (.add 5 4 4)].all fun s => s.deex.valid = true ∧ isBubble s.deex.kind = false ∧
      needsA s.deex.layout = true ∧ s.deex.srcA ≠ zeroReg ∧ s.exmem.valid = true ∧
      isBubble s.exmem.kind = false ∧ s.exmem.wb.regWrite = true ∧ s.exmem.dst = s.deex.srcA) = true ∧
    hidden.exmem.mem.memRead = true ∧ hidden.memwb.dst = hidden.deex.srcA ∧
    zeroSource.deex.valid = true ∧ isBubble zeroSource.deex.kind = false ∧
      zeroSource.deex.srcA = zeroReg ∧ zeroSource.exmem.dst = zeroReg := by decide +kernel

/-- Vectors V26 and V27 (a): the slot keeps its value; the load stalls, the zero register does not. -/
theorem test_hazard_keeps_slot :
    (hazardUnit hidden).deex.valA = hidden.deex.valA ∧ (hazardUnit hidden).dataStalled = true ∧
    (hazardUnit zeroSource).deex.valA = 0 ∧ (hazardUnit zeroSource).dataStalled = false := by
  decide +kernel

/-- Both clauses: a flags update pending in `EXMEM`, and none. -/
theorem witness_ForwardsFlags :
    let s := forwarding (.bNe (-2))
    s.deex.valid = true ∧ isBubble s.deex.kind = false ∧
      (s.exmem.valid = true ∧ isBubble s.exmem.kind = false ∧ s.exmem.wb.flagsUpdate = true) ∧
      loadUse.deex.valid = true ∧ isBubble loadUse.deex.kind = false ∧
      loadUse.exmem.wb.flagsUpdate = false := by decide +kernel

/-- Both clauses: a `DEEX` that holds nothing or a bubble, and one that stalls. -/
theorem witness_HazardUnitFrame :
    alone.deex.valid = false ∧
      isBubble ({ alone with deex := bubbleDeEx .memBubble 0 } : State).deex.kind = true ∧
      (hazardUnit loadUse).dataStalled = true := by decide +kernel

/-- The differences `2^63 - 1` and `-2^63`, the ends of the range. -/
theorem witness_SignedConditions :
    (-2 ^ 63 ≤ (0x7FFFFFFFFFFFFFFF : Word).toInt - (0 : Word).toInt ∧
      (0x7FFFFFFFFFFFFFFF : Word).toInt - (0 : Word).toInt < 2 ^ 63) ∧
    (-2 ^ 63 ≤ (0x8000000000000000 : Word).toInt - (0 : Word).toInt ∧
      (0x8000000000000000 : Word).toInt - (0 : Word).toInt < 2 ^ 63) := by decide

/-- Two addresses with the same BTB index (vector V22). -/
theorem witness_PredictAfterUpdate :
    (0x401100 : Word) ≠ 0x400100 ∧
      (0x401100 : Word).extractLsb' 2 10 = (0x400100 : Word).extractLsb' 2 10 := by decide

theorem defaultParams_legal : defaultParams.legal :=
  ⟨⟨5, by decide⟩, ⟨6, by decide⟩, ⟨8, by decide⟩, by decide⟩

theorem witness_MissCountsDown :
    defaultParams.legal ∧ crossesBlock defaultParams 0x400000 4 = false ∧
      (getCache .ic State.reset).queries = [] ∧
      cacheLookup defaultParams .ic 0x400000 State.reset = none :=
  ⟨defaultParams_legal, by decide +kernel⟩

theorem witness_WriteThenRead :
    defaultParams.legal ∧ crossesBlock defaultParams 0x1018 8 = false ∧
      (getCache .dc alone).queries = [] ∧
      cacheLookup defaultParams .dc 0x1018 alone = some (1024, line1000) ∧
      line1000.bytes.length = defaultParams.block :=
  ⟨defaultParams_legal, by decide +kernel⟩

theorem witness_FillEvictsOldest : defaultParams.legal := defaultParams_legal

end Sys2Proof.Tests
end

section
/-!
PROOFS of the statements about backing memory (20_memory.md): runs of bytes, the write-through of a line,
and what one cycle does to the data cache and to backing memory, each said once.
-/

namespace Sys2Proof.Machine.Backing

/-! ## Runs of bytes -/

theorem memBytes_length (m : Memory) (a : Word) (n : Nat) : (memBytes m a n).length = n := by
  simp [memBytes]

theorem memBytes_getElem? (m : Memory) (a : Word) {n k : Nat} (hk : k < n) :
    (memBytes m a n)[k]? = some (memRead m (a + BitVec.ofNat 64 k)) := by
  simp [memBytes, hk]

/-- A list of bytes is a run of backing memory when its length is the run's and each byte is memory's. -/
theorem eq_memBytes {bytes : List Byte} {m : Memory} {a : Word} {n : Nat} (hlen : bytes.length = n)
    (hb : ∀ k < n, bytes[k]? = some (memRead m (a + BitVec.ofNat 64 k))) : bytes = memBytes m a n := by
  apply List.ext_getElem?
  intro k
  by_cases hk : k < n
  · rw [hb k hk, memBytes_getElem? m a hk]
  · rw [List.getElem?_eq_none (by omega), List.getElem?_eq_none (by rw [memBytes_length]; omega)]

/-- A fill reads the bytes of its block (40_cache.md R119). -/
theorem fillBytes_eq_memBytes (p : Params) (h4 : p.block % 4 = 0) (b : Word) (m : Memory) :
    fillBytes p b m = memBytes m b p.block :=
  eq_memBytes (fillBytes_length p h4 b m) (fillBytes_getElem? p h4 b m)

theorem defaultParams_block : defaultParams.block = 32 := rfl

/-- The address of a byte of the block a tag names. -/
theorem tagBase_add_toNat {tag k : Nat} (ht : (tag + 1) * 32 ≤ 2 ^ 64) (hk : k < 32) :
    (tagBase defaultParams tag + BitVec.ofNat 64 k).toNat = tag * 32 + k := by
  simp only [tagBase, defaultParams_block, BitVec.toNat_add, BitVec.toNat_ofNat]
  omega

/-- The base of an aligned block is that of its block number (40_cache.md R110). -/
theorem tagBase_blockNumber {b : Word} (hb : b.toNat % defaultParams.block = 0) :
    tagBase defaultParams (blockNumber defaultParams b) = b := by
  apply BitVec.eq_of_toNat_eq
  have hlt := b.isLt
  simp only [tagBase, blockNumber, defaultParams_block, BitVec.toNat_ofNat] at hb ⊢
  omega

theorem blockBase_aligned (a : Word) : (blockBase defaultParams a).toNat % defaultParams.block = 0 := by
  have hlt := a.isLt
  simp only [blockBase, defaultParams_block, BitVec.toNat_ofNat]
  omega

/-- An access that stays in its block ends at or before the block's end (40_cache.md R112). -/
theorem crossesBlock_eq_false {p : Params} {a : Word} {n : Nat} :
    crossesBlock p a n = false ↔ blockOffset p a + n ≤ p.block := by
  simp [crossesBlock]

theorem crossesBlock_eq_true {p : Params} {a : Word} {n : Nat} :
    crossesBlock p a n = true ↔ p.block < blockOffset p a + n := by
  simp [crossesBlock]

/-! ## A line with a store's bytes in it (40_cache.md R116) -/

theorem valueBytes_length (n : Nat) (v : Word) : (valueBytes n v).length = n := by simp [valueBytes]

theorem valueBytes_getElem? {n k : Nat} (v : Word) (hk : k < n) :
    (valueBytes n v)[k]? = some (v.extractLsb' (8 * k) 8) := by
  simp [valueBytes, hk]

theorem patchLine_length {l : Line} {off n : Nat} (v : Word) (h : off + n ≤ l.bytes.length) :
    (patchLine l off n v).bytes.length = l.bytes.length := by
  simp only [patchLine, List.length_append, List.length_take, List.length_drop, valueBytes_length]
  omega

/-- The bytes of the store are the datum's, the others the line's. -/
theorem patchLine_getElem? {l : Line} {off n : Nat} (v : Word) (h : off + n ≤ l.bytes.length) (k : Nat) :
    (patchLine l off n v).bytes[k]? =
      if off ≤ k ∧ k < off + n then some (v.extractLsb' (8 * (k - off)) 8) else l.bytes[k]? := by
  have htake : (l.bytes.take off).length = off := by rw [List.length_take]; omega
  have hhead : (l.bytes.take off ++ valueBytes n v).length = off + n := by
    rw [List.length_append, htake, valueBytes_length]
  simp only [patchLine]
  by_cases h1 : k < off
  · rw [List.getElem?_append_left (by omega), List.getElem?_append_left (by omega),
      List.getElem?_take_of_lt h1, if_neg (by omega)]
  by_cases h2 : k < off + n
  · rw [List.getElem?_append_left (by omega), List.getElem?_append_right (by omega), htake,
      valueBytes_getElem? v (by omega), if_pos (by omega)]
  · rw [List.getElem?_append_right (by omega), hhead, List.getElem?_drop, if_neg (by omega)]
    congr 1
    omega

/-- The bytes a store writes are the low bytes of its register (45_memory_writeback.md R225). -/
theorem storeValue_byte (e : ExMem) {k : Nat} (hk : k < widthBytes e.mem.width) :
    (storeValue e).extractLsb' (8 * k) 8 = e.storeData.extractLsb' (8 * k) 8 := by
  apply BitVec.eq_of_getLsbD_eq
  intro i hi
  have hlow : 8 * k + i < 8 * widthBytes e.mem.width := by omega
  simp only [storeValue, BitVec.getLsbD_extractLsb', BitVec.getLsbD_ofNat, Nat.testBit_mod_two_pow, hlow,
    decide_true, Bool.true_and, BitVec.testBit_toNat]
  by_cases h64 : 8 * k + i < 64
  · simp [h64]
  · simp [h64, BitVec.getLsbD_of_ge _ _ (Nat.le_of_not_lt h64)]

/-! ## The write-through of a line (40_cache.md R120) -/

/-- A byte of a block after the write-through of a line: the line's byte in the line's own block, and
the byte as it was in every other block. -/
theorem memRead_syncBlock_tagBase {l : Line} {tag k : Nat} (m : Memory) (hl : (l.tag + 1) * 32 ≤ 2 ^ 64)
    (ht : (tag + 1) * 32 ≤ 2 ^ 64) (hk : k < 32) :
    memRead (syncBlock defaultParams l m) (tagBase defaultParams tag + BitVec.ofNat 64 k) =
      if tag = l.tag then l.bytes[k]?.getD 0
      else memRead m (tagBase defaultParams tag + BitVec.ofNat 64 k) := by
  rw [memRead_syncBlock defaultParams rfl l (by rw [defaultParams_block]; omega), tagBase_add_toNat ht hk,
    defaultParams_block]
  by_cases h : tag = l.tag
  · subst h
    rw [if_pos (by omega), if_pos rfl, Nat.add_sub_cancel_left]
  · rw [if_neg (by omega), if_neg h]

/-- After its write-through a line holds what backing memory holds of its block (20_memory.md R75). -/
theorem bytes_eq_memBytes_syncBlock {l : Line} (m : Memory) (hl : (l.tag + 1) * 32 ≤ 2 ^ 64)
    (hlen : l.bytes.length = 32) :
    l.bytes = memBytes (syncBlock defaultParams l m) (tagBase defaultParams l.tag) 32 := by
  refine eq_memBytes hlen fun k hk => ?_
  rw [memRead_syncBlock_tagBase m hl hl hk, if_pos rfl]
  simp [hlen, hk]

/-- The write-through of a line leaves the other blocks of backing memory alone. -/
theorem memBytes_syncBlock_other {l : Line} {tag : Nat} (m : Memory) (hl : (l.tag + 1) * 32 ≤ 2 ^ 64)
    (ht : (tag + 1) * 32 ≤ 2 ^ 64) (hne : tag ≠ l.tag) :
    memBytes (syncBlock defaultParams l m) (tagBase defaultParams tag) 32 =
      memBytes m (tagBase defaultParams tag) 32 := by
  refine eq_memBytes (memBytes_length _ _ _) fun k hk => ?_
  rw [memBytes_getElem? _ _ hk, memRead_syncBlock_tagBase m hl ht hk, if_neg hne]

end Sys2Proof.Machine.Backing
end

section
/-!
PROOFS: what Memory does to the data cache and to backing memory in one cycle, said once (`DataEffect`),
and that no other procedure of the cycle but the tick of the data cache touches either.
-/

namespace Sys2Proof.Machine.Backing

/-! ## The access of Memory -/

/-- The line that the store in `e` leaves of the line `l` (40_cache.md R116). -/
def storedInto (e : ExMem) (l : Line) (stamp : Nat) : Line :=
  storedLine l stamp e.aluResult (widthBytes e.mem.width) (storeValue e)

/-- Everything Memory's work on `e` can do to the data cache and to backing memory: nothing, a new query,
a touched line, or the completing store with its write-through (45_memory_writeback.md R223 to R227). -/
inductive DataEffect (e : ExMem) (dc : Cache) (m : Memory) (dc' : Cache) (m' : Memory) : Prop
  | keeps (hd : dc' = dc) (hm : m' = m)
  | opens (hm : m' = m) (hl : dc'.lines = dc.lines)
      (hq : dc'.queries = dc.queries ++ [{ base := blockBase defaultParams e.aluResult, rem := missLatency }])
  | touches (i : Nat) (l : Line) (stamp : Nat) (hm : m' = m) (hi : tableGet dc.lines i = some l)
      (hl : ∀ j, tableGet dc'.lines j = if j = i then some { l with stamp := stamp } else tableGet dc.lines j)
      (hq : dc'.queries = dc.queries)
  | stores (i : Nat) (l : Line) (stamp : Nat) (hlive : isBubble e.kind = false)
      (hr : e.mem.memRead = false) (hw : e.mem.memWrite = true)
      (hx : crossesBlock defaultParams e.aluResult (widthBytes e.mem.width) = false)
      (hi : tableGet dc.lines i = some l) (ht : l.tag = blockNumber defaultParams e.aluResult)
      (hm : m' = syncBlock defaultParams (storedInto e l stamp) m)
      (hl : ∀ j, tableGet dc'.lines j = if j = i then some (storedInto e l stamp) else tableGet dc.lines j)
      (hq : dc'.queries = dc.queries)

/-- An instruction that passes through Memory or not, said of its fields (45_memory_writeback.md R223). -/
theorem passesThrough_eq_false {e : ExMem} :
    passesThrough e = false ↔
      isBubble e.kind = false ∧ (e.mem.memRead = true ∨ e.mem.memWrite = true) := by
  unfold passesThrough
  cases isBubble e.kind <;> cases e.mem.memRead <;> cases e.mem.memWrite <;> decide

/-- An access that does not complete does to the state what `Read` does. -/
theorem dataAccess_not_done {s : State} {p : Params}
    (h : ∀ d i, (cacheRead p .dc s.exmem.aluResult (widthBytes s.exmem.mem.width) s).1 ≠ .done d i) :
    dataAccess p s = cacheRead p .dc s.exmem.aluResult (widthBytes s.exmem.mem.width) s := by
  unfold dataAccess
  split
  · rfl
  · exact cacheWrite_not_done h

theorem dataAccess_effect {s : State} (hp : passesThrough s.exmem = false) :
    DataEffect s.exmem s.dc s.mem (dataAccess defaultParams s).2.dc (dataAccess defaultParams s).2.mem := by
  obtain ⟨hlive, hop⟩ := passesThrough_eq_false.mp hp
  rcases cacheRead_cases defaultParams .dc s.exmem.aluResult (widthBytes s.exmem.mem.width) s with
    ⟨-, h⟩ | ⟨-, q, -, h⟩ | ⟨hx, hq, i, l, hl, h⟩ | ⟨-, -, -, h⟩
  · rw [dataAccess_not_done (by simp [h]), h]
    exact .keeps rfl rfl
  · rw [dataAccess_not_done (by simp [h]), h]
    exact .keeps rfl rfl
  · obtain ⟨-, hi, ht⟩ := cacheLookup_some hl
    unfold dataAccess
    split
    · rw [h]
      exact .touches i l (s.ts + 1) rfl hi (fun j => tableGet_put _ _ _ _) rfl
    · rename_i hr
      rw [Bool.not_eq_true] at hr
      rw [cacheWrite_hit hx hq hl]
      refine .stores i l (s.ts + 1) hlive hr (by simpa [hr] using hop) hx hi ht rfl (fun j => ?_) rfl
      show tableGet (tablePut (tablePut s.dc.lines i _) i (storedInto s.exmem l (s.ts + 1))) j = _
      rw [tableGet_put, tableGet_put]
      split_ifs <;> rfl
  · rw [dataAccess_not_done (by simp [h]), h]
    exact .opens rfl rfl rfl

/-- Moving the result of an access on changes neither the data cache nor backing memory. -/
theorem memoryMove_access {p : Params} {s : State} (hp : passesThrough s.exmem = false) :
    (memoryMove p s).dc = (dataAccess p s).2.dc ∧ (memoryMove p s).mem = (dataAccess p s).2.mem := by
  rcases h : dataAccess p s with ⟨_ | k | ⟨d, i⟩, s1⟩
  · rw [memoryMove_raised hp h]; exact ⟨rfl, rfl⟩
  · rw [memoryMove_waiting hp h]; simp
  · rw [memoryMove_done hp h]; simp

theorem memoryMove_effect (s : State) :
    DataEffect s.exmem s.dc s.mem (memoryMove defaultParams s).dc (memoryMove defaultParams s).mem := by
  by_cases hp : passesThrough s.exmem = true
  · refine .keeps ?_ ?_ <;> simp [memoryMove, hp]
  · rw [Bool.not_eq_true] at hp
    obtain ⟨hd, hm⟩ := memoryMove_access (p := defaultParams) hp
    rw [hd, hm]
    exact dataAccess_effect hp

/-! ## The stages up to Memory -/

/-- The state the hazard unit and Writeback leave to Memory, with `EXMEM` restored (R222). -/
def memoryInput (s : State) : State := restoreExMem (writebackStage (hazardUnit s))

@[simp] theorem memoryInput_exmem (s : State) : (memoryInput s).exmem = memoryOperand s := by
  unfold memoryInput restoreExMem memoryOperand
  split <;> split <;> simp_all

@[simp] theorem memoryInput_dc (s : State) : (memoryInput s).dc = s.dc := by simp [memoryInput]
@[simp] theorem memoryInput_mem (s : State) : (memoryInput s).mem = s.mem := by simp [memoryInput]

theorem memoryInput_not_fatal {s : State} (h : s.status = .running) : isFatal (memoryInput s) = false :=
  (isFatal_congr (by simp [memoryInput])).trans (writebackStage_not_fatal h)

theorem afterMemory_runs {s : State} (h : MemoryRuns s) :
    afterMemory s = memoryMove defaultParams (memoryInput s) := by
  obtain ⟨hm, hv⟩ := h
  exact memoryStage_live (by simpa using hm) (by simpa using hv)

theorem afterMemory_not_runs {s : State} (h : ¬MemoryRuns s) :
    afterMemory s = writebackStage (hazardUnit s) := by
  unfold afterMemory
  by_cases hm : s.memHalted = true
  · exact memoryStage_halted (by simpa using hm)
  · refine memoryStage_empty ?_
    simpa [MemoryRuns, hm] using h

/-- What a cycle up to Memory does to the data cache and to backing memory: nothing where Memory has no
instruction, and what its access does where it has one. -/
theorem afterMemory_effect (s : State) :
    ((afterMemory s).dc = s.dc ∧ (afterMemory s).mem = s.mem) ∨
    (MemoryRuns s ∧ DataEffect (memoryOperand s) s.dc s.mem (afterMemory s).dc (afterMemory s).mem) := by
  by_cases h : MemoryRuns s
  · have heff := memoryMove_effect (memoryInput s)
    rw [← afterMemory_runs h] at heff
    exact .inr ⟨h, by simpa using heff⟩
  · rw [afterMemory_not_runs h]
    exact .inl ⟨by simp, by simp⟩

/-! ## The rest of the cycle -/

theorem next_eq_cycle {s t : State} (h : step s = .next t) :
    ∃ d, t = cycleWith defaultParams refIsHalt d s := by
  obtain ⟨d, hd⟩ := step_eq_cycle s
  rw [hd] at h
  exact ⟨d, (Host.Outcome.next.inj h).symm⟩

theorem unlessFatal_cases (f : State → State) (s : State) : unlessFatal f s = s ∨ unlessFatal f s = f s := by
  unfold unlessFatal
  split
  · exact .inl rfl
  · exact .inr rfl

/-- Execute, Decode and Fetch leave the data cache and backing memory as Memory left them. -/
theorem beforeTick_data (d : Decoded) (s : State) :
    let w := unlessFatal (fetchStage defaultParams refIsHalt) (unlessFatal (decodeStage d) (beforeDecode s))
    w.dc = (afterMemory s).dc ∧ w.mem = (afterMemory s).mem := by
  refine ⟨?_, ?_⟩
  · rw [unlessFatal_keeps State.dc (by simp), unlessFatal_keeps State.dc (by simp), beforeDecode_eq,
      unlessFatal_keeps State.dc (by simp)]
  · rw [unlessFatal_keeps State.mem (by simp), unlessFatal_keeps State.mem (by simp), beforeDecode_eq,
      unlessFatal_keeps State.mem (by simp)]

/-- The end of a cycle does nothing to the data cache but tick it, and nothing to backing memory. -/
theorem cycleEnd_data (w : State) :
    (cycleEnd defaultParams w).mem = w.mem ∧
    ∃ v : State, v.dc = w.dc ∧ v.mem = w.mem ∧
      ((cycleEnd defaultParams w).dc = v.dc ∨
        (cycleEnd defaultParams w).dc = (cacheTick defaultParams .dc v).dc) := by
  refine ⟨cycleEnd_keeps State.mem (fun _ _ => rfl) (fun _ _ => by simp) w,
    cacheTick defaultParams .ic w, by simp, by simp, ?_⟩
  have hcount := unlessFatal_keeps State.dc (f := fun s => { s with cycleCount := s.cycleCount + 1 })
    (fun _ => rfl) (unlessFatal (cacheTick defaultParams .dc) (cacheTick defaultParams .ic w))
  unfold cycleEnd
  rw [hcount]
  rcases unlessFatal_cases (cacheTick defaultParams .dc) (cacheTick defaultParams .ic w) with h | h <;> rw [h]
  · exact .inl rfl
  · exact .inr rfl

/-- Backing memory after a cycle is what Memory left, and the data cache is that after at most a tick. -/
theorem cycleWith_data {d : Decoded} {s : State} (h : s.status = .running) :
    (cycleWith defaultParams refIsHalt d s).mem = (afterMemory s).mem ∧
    ∃ v : State, v.dc = (afterMemory s).dc ∧ v.mem = (afterMemory s).mem ∧
      ((cycleWith defaultParams refIsHalt d s).dc = v.dc ∨
        (cycleWith defaultParams refIsHalt d s).dc = (cacheTick defaultParams .dc v).dc) := by
  rw [cycleWith_beforeDecode h]
  obtain ⟨hd, hm⟩ := beforeTick_data d s
  generalize unlessFatal (fetchStage defaultParams refIsHalt)
    (unlessFatal (decodeStage d) (beforeDecode s)) = w at hd hm ⊢
  rcases unlessFatal_cases (cycleEnd defaultParams) w with e | e <;> rw [e]
  · exact ⟨hm, w, hd, hm, .inl rfl⟩
  · obtain ⟨hmem, v, hvd, hvm, hdc⟩ := cycleEnd_data w
    exact ⟨hmem.trans hm, v, hvd.trans hd, hvm.trans hm, hdc⟩

end Sys2Proof.Machine.Backing
end

section
/-!
PROOFS of O15, O18 and O24: the write-through invariant, the canonical form of backing memory, and which
bytes of it a cycle can change.
-/

namespace Sys2Proof.Machine.Backing

/-! ## The write-through invariant (20_memory.md R75) -/

/-- The invariant looks at the lines of the data cache and at backing memory only. -/
theorem writeThrough_congr {s t : State} (hl : t.dc.lines = s.dc.lines) (hm : t.mem = s.mem)
    (h : WriteThrough s) : WriteThrough t := by
  intro i l hi
  rw [hm]
  exact h i l (hl ▸ hi)

/-- Every query of a cache is for a whole block (10_state.md R44). -/
def QueriesAligned (qs : List Query) : Prop := ∀ q ∈ qs, q.base.toNat % defaultParams.block = 0

/-- A fill of an aligned block gives a line that equals backing memory, and evicts at most one
(40_cache.md R119). -/
theorem writeThrough_cacheFill {s : State} {b : Word} (hb : b.toNat % defaultParams.block = 0)
    (h : WriteThrough s) : WriteThrough (cacheFill defaultParams .dc b s) := by
  intro i l hi
  rw [cacheFill_mem]
  change tableGet (tablePut s.dc.lines (lineIndex defaultParams .dc b (victimWay defaultParams .dc b s)) _) i
    = some l at hi
  rw [tableGet_put] at hi
  split at hi
  · obtain rfl := Option.some.inj hi
    show fillBytes defaultParams b s.mem = _
    rw [tagBase_blockNumber hb]
    exact fillBytes_eq_memBytes defaultParams rfl b s.mem
  · exact h i l hi

theorem writeThrough_tickQueries {qs : List Query} (hq : QueriesAligned qs) (kept : List Query) {s : State}
    (h : WriteThrough s) : WriteThrough (tickQueries defaultParams .dc kept qs s) := by
  induction qs generalizing kept s with
  | nil => exact writeThrough_congr rfl rfl h
  | cons q rest ih =>
    have hrest : QueriesAligned rest := fun q' hq' => hq q' (List.mem_cons_of_mem _ hq')
    unfold tickQueries
    split_ifs
    · exact writeThrough_congr rfl rfl h
    · exact ih hrest _ (writeThrough_cacheFill (hq q List.mem_cons_self) h)
    · exact ih hrest _ h

/-- The tick of the data cache keeps the invariant (40_cache.md R118). -/
theorem writeThrough_cacheTick {s : State} (hq : QueriesAligned s.dc.queries) (h : WriteThrough s) :
    WriteThrough (cacheTick defaultParams .dc s) :=
  writeThrough_tickQueries hq [] h

/-- Whatever Memory does, the next tick fills whole blocks. -/
theorem DataEffect.queriesAligned {e : ExMem} {dc dc' : Cache} {m m' : Memory} (h : DataEffect e dc m dc' m')
    (ha : QueriesAligned dc.queries) : QueriesAligned dc'.queries := by
  cases h with
  | keeps hd _ => rwa [hd]
  | opens _ _ hq =>
    intro q hmem
    rw [hq, List.mem_append, List.mem_singleton] at hmem
    rcases hmem with hmem | rfl
    · exact ha q hmem
    · exact blockBase_aligned _
  | touches _ _ _ _ _ _ hq => rwa [hq]
  | stores _ _ _ _ _ _ _ _ _ _ _ hq => rwa [hq]

/-- A store that stays in its block leaves a whole line. -/
theorem storedInto_length {e : ExMem} {l : Line} (stamp : Nat) (hlen : l.bytes.length = 32)
    (hx : crossesBlock defaultParams e.aluResult (widthBytes e.mem.width) = false) :
    (storedInto e l stamp).bytes.length = 32 := by
  rw [crossesBlock_eq_false, defaultParams_block] at hx
  refine (patchLine_length _ ?_).trans hlen
  show _ ≤ l.bytes.length
  omega

/-- What Memory does keeps the invariant: a touched line keeps its bytes, and a store writes its line
through, which no other line shares a block with (40_cache.md R111, R120). -/
theorem DataEffect.writeThrough {e : ExMem} {s t : State} (h : DataEffect e s.dc s.mem t.dc t.mem)
    (hinv : LinesInv defaultParams .dc s) (hw : WriteThrough s) : WriteThrough t := by
  obtain ⟨hline, huniq⟩ := hinv
  cases h with
  | keeps hd hm => exact writeThrough_congr (by rw [hd]) hm hw
  | opens hm hl _ => exact writeThrough_congr hl hm hw
  | touches i l stamp hm hi hl _ =>
    intro j l' hj
    rw [hm]
    rw [hl] at hj
    split at hj
    · obtain rfl := Option.some.inj hj
      exact hw i l hi
    · exact hw j l' hj
  | stores i l stamp _ _ _ hx hi _ hm hl _ =>
    obtain ⟨-, -, htag, hlen, -, -⟩ := hline i l hi
    intro j l' hj
    rw [hm]
    rw [hl] at hj
    split at hj
    · obtain rfl := Option.some.inj hj
      exact bytes_eq_memBytes_syncBlock _ htag (storedInto_length stamp hlen hx)
    · rename_i hne
      have htags : l'.tag ≠ l.tag := fun heq => hne (huniq j i l' l hj hi (.inl heq))
      obtain ⟨-, -, htag', -, -, -⟩ := hline j l' hj
      exact (hw j l' hj).trans (memBytes_syncBlock_other (l := storedInto e l stamp) _ htag htag' htags).symm

/-- Settles O15: Memory keeps the invariant by `DataEffect.writeThrough`, the tick by the alignment of the
queries, and no other procedure touches the data cache or backing memory. -/
theorem stepKeepsWriteThrough : Obligations.StepKeepsWriteThrough := by
  rintro s t ⟨-, hlines, -, ⟨-, hqueries⟩, -⟩ hw hstep
  obtain ⟨d, rfl⟩ := next_eq_cycle hstep
  by_cases hr : s.status = .running
  · have haligned : QueriesAligned s.dc.queries := fun q hq => (hqueries q hq).1
    have hafter : WriteThrough (afterMemory s) ∧ QueriesAligned (afterMemory s).dc.queries := by
      rcases afterMemory_effect s with ⟨hd, hm⟩ | ⟨-, heff⟩
      · exact ⟨writeThrough_congr (by rw [hd]) hm hw, by rwa [hd]⟩
      · exact ⟨heff.writeThrough hlines hw, heff.queriesAligned haligned⟩
    obtain ⟨hmem, v, hvd, hvm, hdc⟩ := cycleWith_data (d := d) hr
    have hv : WriteThrough v := writeThrough_congr (by rw [hvd]) hvm hafter.1
    rcases hdc with hdc | hdc
    · exact writeThrough_congr (by rw [hdc]) (hmem.trans hvm.symm) hv
    · exact writeThrough_congr (by rw [hdc]) (by rw [hmem, cacheTick_mem, hvm])
        (writeThrough_cacheTick (by rw [hvd]; exact hafter.2) hv)
  · rwa [cycleWith_stopped hr]

/-! ## The canonical form of backing memory -/

theorem DataEffect.memory_wf {e : ExMem} {dc dc' : Cache} {m m' : Memory} (h : DataEffect e dc m dc' m')
    (hwf : Memory.wf m) : Memory.wf m' := by
  cases h with
  | keeps _ hm | opens hm _ _ | touches _ _ _ hm _ _ _ => rwa [hm]
  | stores _ _ _ _ _ _ _ _ _ hm _ _ =>
    rw [hm]
    exact Memory.wf_syncBlock hwf defaultParams _

/-- Settles O18: only Memory writes backing memory, and a write-through keeps the form. -/
theorem stepKeepsMemoryForm : Obligations.StepKeepsMemoryForm := by
  intro s t hwf hstep
  obtain ⟨d, rfl⟩ := next_eq_cycle hstep
  by_cases hr : s.status = .running
  · rw [(cycleWith_data hr).1]
    rcases afterMemory_effect s with ⟨-, hm⟩ | ⟨-, heff⟩
    · rwa [hm]
    · exact heff.memory_wf hwf
  · rwa [cycleWith_stopped hr]

/-! ## The bytes that change (20_memory.md R60, 45_memory_writeback.md R225) -/

/-- Byte `k` of the line a store leaves: the datum's byte where the store writes, else the line's. -/
theorem storedInto_getElem? {e : ExMem} {l : Line} (stamp : Nat) (hlen : l.bytes.length = 32)
    (hx : crossesBlock defaultParams e.aluResult (widthBytes e.mem.width) = false) (k : Nat) :
    (storedInto e l stamp).bytes[k]? =
      if blockOffset defaultParams e.aluResult ≤ k ∧
          k < blockOffset defaultParams e.aluResult + widthBytes e.mem.width then
        some (e.storeData.extractLsb' (8 * (k - blockOffset defaultParams e.aluResult)) 8)
      else l.bytes[k]? := by
  rw [crossesBlock_eq_false, defaultParams_block] at hx
  refine (patchLine_getElem? (l := { l with stamp := stamp }) _ (by show _ ≤ l.bytes.length; omega) k).trans ?_
  split_ifs with hin
  · rw [storeValue_byte e (by omega)]
  · rfl

/-- Backing memory after the write-through of a store, where the line was equal to it before: the bytes of
the store are the datum's, and every other byte is as it was. -/
theorem memRead_syncBlock_storedInto {e : ExMem} {l : Line} {m : Memory} (stamp : Nat)
    (hx : crossesBlock defaultParams e.aluResult (widthBytes e.mem.width) = false)
    (ht : l.tag = blockNumber defaultParams e.aluResult)
    (hline : l.bytes = memBytes m (tagBase defaultParams l.tag) 32) (a : Word) :
    memRead (syncBlock defaultParams (storedInto e l stamp) m) a =
      if (a - e.aluResult).toNat < widthBytes e.mem.width then
        e.storeData.extractLsb' (8 * (a - e.aluResult).toNat) 8
      else memRead m a := by
  have hlen : l.bytes.length = 32 := by rw [hline, memBytes_length]
  have hlt := e.aluResult.isLt
  have htag : l.tag = e.aluResult.toNat / 32 := ht
  have hoff : blockOffset defaultParams e.aluResult = e.aluResult.toNat % 32 := rfl
  have hend := crossesBlock_eq_false.mp hx
  rw [defaultParams_block] at hend
  have hread : memRead (syncBlock defaultParams (storedInto e l stamp) m) a =
      if l.tag * 32 ≤ a.toNat ∧ a.toNat < l.tag * 32 + 32 then
        (storedInto e l stamp).bytes[a.toNat - l.tag * 32]?.getD 0
      else memRead m a :=
    memRead_syncBlock defaultParams rfl (storedInto e l stamp) (show l.tag * 32 + 32 ≤ 2 ^ 64 by omega) m a
  have hsub : (a - e.aluResult).toNat = (2 ^ 64 - e.aluResult.toNat + a.toNat) % 2 ^ 64 := BitVec.toNat_sub _ _
  rw [hread, storedInto_getElem? stamp hlen hx]
  by_cases hin : l.tag * 32 ≤ a.toNat ∧ a.toNat < l.tag * 32 + 32
  · rw [if_pos hin]
    by_cases hstore : (a - e.aluResult).toNat < widthBytes e.mem.width
    · rw [if_pos (by omega), if_pos hstore,
        show a.toNat - l.tag * 32 - blockOffset defaultParams e.aluResult = (a - e.aluResult).toNat by omega]
      rfl
    · have haddr : tagBase defaultParams l.tag + BitVec.ofNat 64 (a.toNat - l.tag * 32) = a := by
        apply BitVec.eq_of_toNat_eq
        rw [tagBase_add_toNat (by omega) (by omega)]
        omega
      rw [if_neg (by omega), if_neg hstore, hline, memBytes_getElem? _ _ (by omega), haddr]
      rfl
  · rw [if_neg hin, if_neg (by omega)]

/-- A byte of backing memory that Memory changes is a byte of a completing store, and takes the datum's. -/
theorem DataEffect.changed_byte {e : ExMem} {s t : State} (h : DataEffect e s.dc s.mem t.dc t.mem)
    (hw : WriteThrough s) {a : Word} (ha : memRead t.mem a ≠ memRead s.mem a) :
    isBubble e.kind = false ∧ e.mem.memRead = false ∧ e.mem.memWrite = true ∧
      (a - e.aluResult).toNat < widthBytes e.mem.width ∧
      memRead t.mem a = e.storeData.extractLsb' (8 * (a - e.aluResult).toNat) 8 := by
  cases h with
  | keeps _ hm | opens hm _ _ | touches _ _ _ hm _ _ _ => exact absurd (by rw [hm]) ha
  | stores i l stamp hlive hr hwr hx hi ht hm _ _ =>
    rw [hm] at ha ⊢
    rw [memRead_syncBlock_storedInto stamp hx ht (hw i l hi)] at ha ⊢
    split at ha
    · rename_i hin
      exact ⟨hlive, hr, hwr, hin, if_pos hin⟩
    · exact absurd rfl ha

/-- Settles O24: only Memory writes backing memory, and of what it can do only the completing store
changes a byte. -/
theorem memoryChangesByStores : Obligations.MemoryChangesByStores := by
  intro s t _ hw hr hstep a ha
  obtain ⟨d, rfl⟩ := next_eq_cycle hstep
  rw [(cycleWith_data hr).1] at ha ⊢
  rcases afterMemory_effect s with ⟨-, hm⟩ | ⟨hruns, heff⟩
  · exact absurd (by rw [hm]) ha
  · exact ⟨hruns, heff.changed_byte hw ha⟩

end Sys2Proof.Machine.Backing
end

section
/-!
PROOFS of O20 and O34: the cycle in which Memory raises `FATAL(BLOCK_CROSS)`, that nothing else in a cycle
raises it while `PC` is aligned, and the run of a load or store that crosses a block.
-/

namespace Sys2Proof.Machine.Backing

/-! ## The cycle of the fault (60_exceptions.md R301, R302) -/

/-- `Read` across a block boundary (40_cache.md R112). -/
theorem cacheRead_crosses {p : Params} {c : CacheId} {a : Word} {n : Nat} {s : State}
    (hx : crossesBlock p a n = true) : cacheRead p c a n s = (.raised, raiseFatal (.blockCross a) s) := by
  unfold cacheRead
  exact if_pos hx

/-- Memory's fault leaves the data cache and backing memory alone, like everything else but `STATUS`
(20_memory.md R65, 40_cache.md R112). -/
theorem afterMemory_faults {s : State} (h : MemoryFaults s) :
    afterMemory s = raiseFatal (.blockCross (memoryOperand s).aluResult) (memoryInput s) := by
  obtain ⟨hruns, hp, hx⟩ := h
  rw [← memoryInput_exmem] at hp hx ⊢
  have hread := cacheRead_crosses (c := .dc) (s := memoryInput s) hx
  rw [afterMemory_runs hruns]
  exact memoryMove_raised hp ((dataAccess_not_done (by rw [hread]; nofun)).trans hread)

/-- After Memory's fault the rest of the cycle is abandoned. -/
theorem cycleWith_memoryFaults {d : Decoded} {s : State} (hr : s.status = .running) (h : MemoryFaults s) :
    cycleWith defaultParams refIsHalt d s =
      raiseFatal (.blockCross (memoryOperand s).aluResult) (memoryInput s) := by
  have hf : isFatal (raiseFatal (.blockCross (memoryOperand s).aluResult) (memoryInput s)) = true := rfl
  rw [cycleWith_beforeDecode hr, beforeDecode_eq, afterMemory_faults h, unlessFatal_fatal hf,
    unlessFatal_fatal hf, unlessFatal_fatal hf, unlessFatal_fatal hf]

/-! ## Nothing else raises it -/

/-- No `BLOCK_CROSS` has been raised. -/
def NoBlockCross (s : State) : Prop := ∀ a, s.status ≠ .fatal (.blockCross a)

theorem noBlockCross_congr {s t : State} (h : t.status = s.status) (hs : NoBlockCross s) : NoBlockCross t := by
  intro a
  rw [h]
  exact hs a

theorem noBlockCross_of_not_fatal {s : State} (h : isFatal s = false) : NoBlockCross s := by
  intro a ha
  simp [isFatal, ha] at h

theorem noBlockCross_unlessFatal {f : State → State} {s : State} (hs : NoBlockCross s)
    (hf : NoBlockCross (f s)) : NoBlockCross (unlessFatal f s) := by
  rcases unlessFatal_cases f s with h | h <;> rw [h]
  · exact hs
  · exact hf

/-- Decode raises `DECODE_FAULT` only (43_fetch_decode.md R172). -/
theorem noBlockCross_decodeStage (d : Decoded) {s : State} (h : NoBlockCross s) :
    NoBlockCross (decodeStage d s) := by
  unfold decodeStage
  split_ifs
  · exact h
  · exact h
  · exact h
  · exact noBlockCross_congr rfl h
  · exact noBlockCross_congr rfl h
  · unfold issueDecoded
    split_ifs
    · exact fun a ha => by simp at ha
    · exact noBlockCross_congr (by simp) h

/-- Fetch raises it only where it reads a word that crosses a block (43_fetch_decode.md R158). -/
theorem noBlockCross_fetchStage {s : State}
    (hx : s.controlStalled = true ∨ crossesBlock defaultParams s.pc 4 = false) (h : NoBlockCross s) :
    NoBlockCross (fetchStage defaultParams refIsHalt s) := by
  unfold fetchStage
  split_ifs
  · exact h
  unfold fetchOpen
  split_ifs with hcs
  · exact noBlockCross_congr rfl h
  have hx : crossesBlock defaultParams s.pc 4 = false := hx.resolve_left hcs
  rcases cacheRead_cases defaultParams .ic s.pc 4 s with
    ⟨hc, -⟩ | ⟨-, q, -, e⟩ | ⟨-, -, i, l, -, e⟩ | ⟨-, -, -, e⟩
  · rw [hx] at hc; cases hc
  · rw [e]; exact noBlockCross_congr rfl h
  · rw [e]; exact noBlockCross_congr rfl h
  · rw [e]; exact noBlockCross_congr rfl h

/-- The tick raises `NEG_COUNTDOWN` only (40_cache.md R118). -/
theorem noBlockCross_tickQueries (c : CacheId) (kept qs : List Query) {s : State} (h : NoBlockCross s) :
    NoBlockCross (tickQueries defaultParams c kept qs s) := by
  induction qs generalizing kept s with
  | nil => exact noBlockCross_congr (by simp [tickQueries]) h
  | cons q rest ih =>
    unfold tickQueries
    split_ifs
    · exact fun a ha => by simp at ha
    · exact ih _ (noBlockCross_congr (by simp) h)
    · exact ih _ h

theorem noBlockCross_cycleEnd {s : State} (h : NoBlockCross s) : NoBlockCross (cycleEnd defaultParams s) := by
  have hic : NoBlockCross (cacheTick defaultParams .ic s) := noBlockCross_tickQueries .ic _ _ h
  have hdc : NoBlockCross (unlessFatal (cacheTick defaultParams .dc) (cacheTick defaultParams .ic s)) :=
    noBlockCross_unlessFatal hic (noBlockCross_tickQueries .dc _ _ hic)
  exact noBlockCross_unlessFatal hdc (noBlockCross_congr rfl hdc)

/-- A word at an aligned address lies in one block (20_memory.md R66). -/
theorem aligned_word_in_block {a : Word} (h : a.toNat % 4 = 0) : crossesBlock defaultParams a 4 = false := by
  rw [crossesBlock_eq_false, defaultParams_block, blockOffset, defaultParams_block]
  omega

/-- With `PC` aligned and no fault in Memory, no stage of the cycle raises it. -/
theorem noBlockCross_cycleWith {d : Decoded} {s : State} (hr : s.status = .running)
    (hpc : s.pc.toNat % 4 = 0) (hm : ¬MemoryFaults s) :
    NoBlockCross (cycleWith defaultParams refIsHalt d s) := by
  have hfatal : isFatal (beforeDecode s) = false := by
    rwa [← Bool.not_eq_true, beforeDecode_isFatal hr]
  have hbefore : NoBlockCross (beforeDecode s) := noBlockCross_of_not_fatal hfatal
  have hdecode : NoBlockCross (decodeStage d (beforeDecode s)) := noBlockCross_decodeStage d hbefore
  have hgate : (decodeStage d (beforeDecode s)).controlStalled = true ∨
      crossesBlock defaultParams (decodeStage d (beforeDecode s)).pc 4 = false := by
    rw [decodeStage_controlStalled, decodeStage_pc]
    rcases beforeDecode_fetchState s with ⟨hkeep, -⟩ | ⟨-, hstall, -⟩
    · exact .inr (by rw [hkeep]; exact aligned_word_in_block hpc)
    · exact .inl hstall
  have hfetch := noBlockCross_unlessFatal hdecode (noBlockCross_fetchStage hgate hdecode)
  rw [cycleWith_beforeDecode hr, unlessFatal_ok hfatal]
  exact noBlockCross_unlessFatal hfetch (noBlockCross_cycleEnd hfetch)

/-- Settles O20: if Memory faults, the fault is that of its access; if it does not, an aligned `PC` keeps
Fetch from raising one. -/
theorem blockCrossOnlyInMemory : Obligations.BlockCrossOnlyInMemory := by
  rintro s t a ⟨hpc, -⟩ hr hstep ha
  obtain ⟨d, rfl⟩ := next_eq_cycle hstep
  by_cases hm : MemoryFaults s
  · rw [cycleWith_memoryFaults hr hm] at ha
    obtain rfl : (memoryOperand s).aluResult = a := by simpa [raiseFatal] using ha
    obtain ⟨hruns, hp, hx⟩ := hm
    obtain ⟨hlive, hop⟩ := passesThrough_eq_false.mp hp
    exact ⟨hruns, hlive, hop, rfl, crossesBlock_eq_true.mp hx⟩
  · exact absurd ha (noBlockCross_cycleWith hr hpc hm a)

/-! ## A load or store that crosses a block, by itself in the pipeline -/

/-- Where an instruction issued alone stands when it reaches Memory, two cycles after the state `s` of its
issue: its record is in `EXMEM`, a bubble is behind it and none before it can retire, and nothing that it
or the fault may not write has changed. -/
structure ReachesMemory (d : Decoded) (s t : State) : Prop where
  backEnd : BackEndOpen t
  exmem : t.exmem = exMemOf { s with deex := deExOf d s }
  deexIdle : SlotIdle t.deex.valid t.deex.kind
  memwbIdle : SlotIdle t.memwb.valid t.memwb.kind
  regs : t.regs = s.regs
  flags : FlagsUnchanged s t
  data : DataUntouched s t
  retired : t.retiredCount = s.retiredCount
  cycles : t.cycleCount = s.cycleCount + 2

/-- The Decode and Execute cycles of an instruction that is no branch. -/
theorem reachesMemory {s : State} {i : Instr} (h : IssuesAlone s) (hn : (recordOf i).kind ≠ .control) :
    ∃ t v, exec i s = .next t ∧ (∀ d, cycleWith defaultParams refIsHalt d t = v) ∧
      ReachesMemory (recordOf i) s v := by
  obtain ⟨hvalid, hbub⟩ := recordOf_kind i
  obtain ⟨e, m, he, hm, h1⟩ := aloneDecode (d := recordOf i) h hvalid
  obtain ⟨-, -, hb, hcs, -, ⟨-, hqd⟩, hx, -⟩ := h
  have hexec : exec i s = .next (cycleWith defaultParams refIsHalt (recordOf i) s) := exec_eq_issue i s
  rw [h1] at hexec
  obtain ⟨m', hm', h2⟩ := aloneExecute (s := { s with
      dataStalled := false, exmem := e, memwb := m, deex := deExOf (recordOf i) s
      ifde := { s.ifde with valid := true, memStall := true, squash := false, flush := false, pc := s.pc }
      ic := { s.ic with queries := [{ base := blockBase defaultParams s.pc, rem := 9 }] }
      cycleCount := s.cycleCount + 1 }) (k := 7) hb hcs rfl hbub hn he hm
    ⟨rfl, rfl, rfl, rfl, rfl, hx, rfl⟩ hqd
  exact ⟨_, _, hexec, h2,
    { backEnd := hb
      exmem := rfl
      deexIdle := fun _ => rfl
      memwbIdle := hm'
      regs := rfl
      flags := ⟨rfl, rfl⟩
      data := ⟨rfl, rfl, rfl⟩
      retired := rfl
      cycles := by show s.cycleCount + 1 + 1 = s.cycleCount + 2; simp [BitVec.add_assoc] }⟩

/-- The instruction that reached Memory is what Memory works on. -/
theorem ReachesMemory.operand {d : Decoded} {s t : State} (h : ReachesMemory d s t) :
    memoryOperand t = exMemOf { s with deex := deExOf d s } := by
  obtain ⟨-, hdc, -, -, -⟩ := h.backEnd
  rw [memoryOperand, hdc, ← h.exmem]
  rfl

/-- An access that crosses a block faults when it reaches Memory. -/
theorem ReachesMemory.faults {d : Decoded} {s t : State} (h : ReachesMemory d s t)
    (hk : isBubble d.kind = false) (hop : d.mem.memRead = true ∨ d.mem.memWrite = true)
    (hx : crossesBlock defaultParams (aluOf (deExOf d s)) (widthBytes d.mem.width) = true) : MemoryFaults t := by
  obtain ⟨-, -, -, -, hmh⟩ := h.backEnd
  refine ⟨⟨hmh, by rw [h.exmem]; rfl⟩, ?_, ?_⟩ <;> rw [h.operand]
  · exact passesThrough_eq_false.mpr ⟨hk, hop⟩
  · exact hx

/-- Hazard unit and Writeback have nothing to do before an instruction that is alone faults. -/
theorem ReachesMemory.memoryInput_eq {d : Decoded} {s t : State} (h : ReachesMemory d s t) :
    memoryInput t = { t with dataStalled := false } := by
  obtain ⟨-, hdc, -, -, hmh⟩ := h.backEnd
  rw [memoryInput, hazardUnit_idle h.deexIdle,
    writebackStage_idle (s := { t with dataStalled := false }) hmh h.memwbIdle,
    restoreExMem_idle (s := { t with dataStalled := false }) hdc]

/-- A load or store issued alone whose access crosses a block: the fault two cycles after Decode, and what
is as it was. -/
theorem crossingAccess_faults {s : State} {i : Instr} (h : IssuesAlone s) (hk : (recordOf i).kind = .dataMove)
    (hop : (recordOf i).mem.memRead = true ∨ (recordOf i).mem.memWrite = true)
    (hx : crossesBlock defaultParams (aluOf (deExOf (recordOf i) s))
      (widthBytes (recordOf i).mem.width) = true) :
    ∃ t u, exec i s = .next t ∧ runCycles 2 t = .next u ∧
      u.status = .fatal (.blockCross (aluOf (deExOf (recordOf i) s))) ∧
      RegsUnchanged s u ∧ FlagsUnchanged s u ∧ DataUntouched s u ∧
      u.retiredCount = s.retiredCount ∧ u.cycleCount = s.cycleCount + 2 ∧ step u = .next u := by
  obtain ⟨t, v, hexec, hv, hreach⟩ := reachesMemory h (by rw [hk]; decide)
  have hfault := hreach.faults (by rw [hk]; rfl) hop hx
  have hcross : ∀ d, cycleWith defaultParams refIsHalt d v =
      raiseFatal (.blockCross (aluOf (deExOf (recordOf i) s))) { v with dataStalled := false } := by
    intro d
    rw [cycleWith_memoryFaults hreach.backEnd.1 hfault, hreach.operand, hreach.memoryInput_eq]
    rfl
  refine ⟨t, _, hexec, (runCycles_succ hv).trans ((runCycles_succ hcross).trans (runCycles_zero _)),
    rfl, readReg_congr hreach.regs, hreach.flags, hreach.data, hreach.retired, hreach.cycles, ?_⟩
  obtain ⟨d, hd⟩ := step_eq_cycle
    (raiseFatal (.blockCross (aluOf (deExOf (recordOf i) s))) { v with dataStalled := false })
  rw [hd, cycleWith_stopped (by simp)]

/-- Settles O34: each of the six records is a load or store with the effective address as its ALU result,
and `crossingAccess_faults` does the rest. -/
theorem crossingAccessFaults : Obligations.CrossingAccessFaults := by
  intro s rt rn simm9 h iw hiw hx
  have hx' := crossesBlock_eq_true.mpr hx
  simp only [List.mem_cons, List.not_mem_nil, or_false] at hiw
  rcases hiw with rfl | rfl | rfl | rfl | rfl | rfl
  · exact crossingAccess_faults h rfl (.inl rfl) hx'
  · exact crossingAccess_faults h rfl (.inl rfl) hx'
  · exact crossingAccess_faults h rfl (.inl rfl) hx'
  · exact crossingAccess_faults h rfl (.inr rfl) hx'
  · exact crossingAccess_faults h rfl (.inr rfl) hx'
  · exact crossingAccess_faults h rfl (.inr rfl) hx'

end Sys2Proof.Machine.Backing
end

section
/-!
PROOFS of the statements about the encoding (30_encoding.md Part B): the nine formats of `REFDEC` and the
rows of the opcode map each of them takes, the decoder and the encoder as each other's inverse, and the
words of `HLT` (O1 to O4, O7).
-/

namespace Sys2Proof.Encoding

/-! ## The opcode map (R101) -/

/-- Two rows exclude each other when their patterns differ in a bit that both masks keep. -/
theorem not_fits_both {r r' : OpcodeRow} (h : r.pattern &&& r'.mask ≠ r'.pattern &&& r.mask)
    (w : Word32) : ¬(w &&& r.mask = r.pattern ∧ w &&& r'.mask = r'.pattern) := by
  rintro ⟨hr, hr'⟩
  apply h
  rw [← hr, ← hr']
  ac_rfl

/-- Settles O3: any two patterns of the map differ in a bit that both masks keep. -/
theorem opcodeMapDisjoint : Obligations.OpcodeMapDisjoint := by
  have hbits : opcodeMap.Pairwise fun r r' => r.pattern &&& r'.mask ≠ r'.pattern &&& r.mask := by decide
  exact hbits.imp not_fits_both

/-! ## A word put together from its fields (R91 to R99) -/

theorem encodeR_fields {w : Word32} {op : BitVec 11} {sh : BitVec 6} (hop : opcode11 w = op)
    (hsh : fieldShamt w = sh) : encodeR op sh (fieldRd w) (fieldRn w) (fieldRm w) = w := by
  subst hop hsh
  unfold encodeR opcode11 fieldShamt fieldRd fieldRn fieldRm
  iterate 4 rw [BitVec.extractLsb'_append_extractLsb'_eq_extractLsb' (by rfl)]
  exact BitVec.extractLsb'_eq_self

theorem encodeI_fields {w : Word32} {op : BitVec 10} (hop : opcode10 w = op) :
    encodeI op (fieldRd w) (fieldRn w) (fieldImm12 w) = w := by
  subst hop
  unfold encodeI opcode10 fieldRd fieldRn fieldImm12
  iterate 3 rw [BitVec.extractLsb'_append_extractLsb'_eq_extractLsb' (by rfl)]
  exact BitVec.extractLsb'_eq_self

theorem encodeShift_fields {w : Word32} {immr imms : BitVec 6} (hop : opcode10 w = 0x34D#10)
    (hr : fieldImmr w = immr) (hs : fieldShamt w = imms) :
    encodeShift (fieldRd w) (fieldRn w) immr imms = w := by
  subst hr hs
  rw [encodeShift, ← hop]
  unfold opcode10 fieldRd fieldRn fieldImmr fieldShamt
  iterate 4 rw [BitVec.extractLsb'_append_extractLsb'_eq_extractLsb' (by rfl)]
  exact BitVec.extractLsb'_eq_self

theorem encodeIW_fields {w : Word32} (hop : opcode9 w = 0x1A5#9) :
    0x1A5#9 ++ fieldHw w ++ fieldImm16 w ++ fieldRd w = w := by
  rw [← hop]
  unfold opcode9 fieldHw fieldImm16 fieldRd
  iterate 3 rw [BitVec.extractLsb'_append_extractLsb'_eq_extractLsb' (by rfl)]
  exact BitVec.extractLsb'_eq_self

theorem encodeD_fields {w : Word32} {op : BitVec 11} (hop : opcode11 w = op) (h2 : fieldOp2 w = 0#2) :
    encodeD op (fieldRd w) (fieldRn w) (fieldImm9 w) = w := by
  subst hop
  rw [encodeD, ← h2]
  unfold opcode11 fieldOp2 fieldRd fieldRn fieldImm9
  iterate 4 rw [BitVec.extractLsb'_append_extractLsb'_eq_extractLsb' (by rfl)]
  exact BitVec.extractLsb'_eq_self

theorem encodeB_fields {w : Word32} (hop : opcode6 w = 0x05#6) : 0x05#6 ++ fieldImm26 w = w := by
  rw [← hop]
  unfold opcode6 fieldImm26
  rw [BitVec.extractLsb'_append_extractLsb'_eq_extractLsb' (by rfl)]
  exact BitVec.extractLsb'_eq_self

theorem encodeCB_fields {w : Word32} {op : BitVec 8} {low : BitVec 5} (hop : opcode8 w = op)
    (hlow : fieldRd w = low) : encodeCB op low (fieldImm19 w) = w := by
  subst hop hlow
  unfold encodeCB opcode8 fieldRd fieldImm19
  iterate 2 rw [BitVec.extractLsb'_append_extractLsb'_eq_extractLsb' (by rfl)]
  exact BitVec.extractLsb'_eq_self

theorem encodeHlt_fields {w : Word32} (hop : opcode11 w = 0x6A2#11) (hlow : fieldRd w = 0#5) :
    0x6A2#11 ++ fieldImm16 w ++ 0#5 = w := by
  rw [← hop, ← hlow]
  unfold opcode11 fieldImm16 fieldRd
  iterate 2 rw [BitVec.extractLsb'_append_extractLsb'_eq_extractLsb' (by rfl)]
  exact BitVec.extractLsb'_eq_self

/-! ## The rows of the opcode map, from the fixed fields of their formats -/

/-- A row of the R format (R91). -/
def rowR (op : BitVec 11) (sh : BitVec 6) : OpcodeRow := ⟨encodeR op sh 0 0 0, 0xFFE0FC00⟩

/-- A row of the I or the shift format (R92, R93). -/
def rowI (op : BitVec 10) : OpcodeRow := ⟨encodeI op 0 0 0, 0xFFC00000⟩

/-- The row of the IW format (R94). -/
def rowIW : OpcodeRow := ⟨0x1A5#9 ++ 0#2 ++ 0#16 ++ 0#5, 0xFF800000⟩

/-- A row of the D format (R95). -/
def rowD (op : BitVec 11) : OpcodeRow := ⟨encodeD op 0 0 0, 0xFFE00C00⟩

/-- The row of the B format (R96). -/
def rowB : OpcodeRow := ⟨0x05#6 ++ 0#26, 0xFC000000⟩

/-- The row of the conditional branches (R97). -/
def rowBcond : OpcodeRow := ⟨encodeCB 0x54 0 0, 0xFF000010⟩

/-- A row of the compare-and-branch format (R98). -/
def rowCB (op : BitVec 8) : OpcodeRow := ⟨encodeCB op 0 0, 0xFF000000⟩

/-- The row of `HLT` (R99). -/
def rowHlt : OpcodeRow := ⟨0x6A2#11 ++ 0#16 ++ 0#5, 0xFFE0001F⟩

/-- The row of `NOP` (R99). -/
def rowNop : OpcodeRow := ⟨nopWord, 0xFFFFFFFF⟩

/-- The word fits the row, in the form of the statements. -/
abbrev Fits (r : OpcodeRow) (w : Word32) : Prop := w &&& r.mask = r.pattern

/-- A field that a mask keeps can be read off the masked word. -/
theorem field_of_and_eq {w m p : Word32} {i n : Nat} (h : w &&& m = p)
    (hm : m.extractLsb' i n = BitVec.allOnes n) : w.extractLsb' i n = p.extractLsb' i n := by
  rw [← h, BitVec.extractLsb'_and, hm, BitVec.and_allOnes]

theorem fits_rowR {w : Word32} {op : BitVec 11} {sh : BitVec 6} :
    Fits (rowR op sh) w ↔ opcode11 w = op ∧ fieldShamt w = sh := by
  refine ⟨fun (h : w &&& 0xFFE0FC00 = encodeR op sh 0 0 0) => ⟨?_, ?_⟩, fun ⟨hop, hsh⟩ => ?_⟩
  · exact (field_of_and_eq h (by decide)).trans (opcode11_encodeR ..)
  · exact (field_of_and_eq h (by decide)).trans (fieldShamt_encodeR ..)
  · rw [Fits, ← encodeR_fields hop hsh]
    exact encodeR_mask ..

theorem fits_rowI {w : Word32} {op : BitVec 10} : Fits (rowI op) w ↔ opcode10 w = op := by
  refine ⟨fun (h : w &&& 0xFFC00000 = encodeI op 0 0 0) => ?_, fun hop => ?_⟩
  · exact (field_of_and_eq h (by decide)).trans (opcode10_encodeI ..)
  · rw [Fits, ← encodeI_fields hop]
    exact encodeI_mask ..

theorem fits_rowIW {w : Word32} : Fits rowIW w ↔ opcode9 w = 0x1A5#9 := by
  refine ⟨fun h => field_of_and_eq h (by decide), fun hop => ?_⟩
  rw [Fits, ← encodeIW_fields hop]
  exact encodeIW_mask ..

theorem fits_rowD {w : Word32} {op : BitVec 11} :
    Fits (rowD op) w ↔ opcode11 w = op ∧ fieldOp2 w = 0#2 := by
  refine ⟨fun (h : w &&& 0xFFE00C00 = encodeD op 0 0 0) => ⟨?_, ?_⟩, fun ⟨hop, h2⟩ => ?_⟩
  · exact (field_of_and_eq h (by decide)).trans (opcode11_encodeD ..)
  · exact (field_of_and_eq h (by decide)).trans (fieldOp2_encodeD ..)
  · rw [Fits, ← encodeD_fields hop h2]
    exact encodeD_mask ..

theorem fits_rowB {w : Word32} : Fits rowB w ↔ opcode6 w = 0x05#6 := by
  refine ⟨fun h => field_of_and_eq h (by decide), fun hop => ?_⟩
  rw [Fits, ← encodeB_fields hop]
  exact encodeB_mask ..

/-- Words of the conditional or the compare-and-branch format are masked field by field. -/
theorem encodeCB_and (op op' : BitVec 8) (low low' : BitVec 5) (imm imm' : BitVec 19) :
    encodeCB op low imm &&& encodeCB op' low' imm' = encodeCB (op &&& op') (low &&& low') (imm &&& imm') :=
  BitVec.and_append.trans (congrArg (· ++ (low &&& low')) BitVec.and_append)

theorem fits_rowBcond {w : Word32} :
    Fits rowBcond w ↔ opcode8 w = 0x54#8 ∧ fieldRd w &&& 0x10#5 = 0#5 := by
  have hmask : rowBcond.mask = encodeCB (BitVec.allOnes 8) 0x10#5 0#19 := by decide
  rw [Fits, hmask, ← encodeCB_fields (w := w) rfl rfl, encodeCB_and, BitVec.and_allOnes, BitVec.and_zero,
    opcode8_encodeCB, fieldRd_encodeCB]
  refine ⟨fun h => ⟨?_, ?_⟩, fun ⟨hop, hlow⟩ => by rw [hop, hlow]; rfl⟩
  · exact (opcode8_encodeCB ..).symm.trans ((congrArg opcode8 h).trans (opcode8_encodeCB ..))
  · exact (fieldRd_encodeCB ..).symm.trans ((congrArg fieldRd h).trans (fieldRd_encodeCB ..))

theorem fits_rowCB {w : Word32} {op : BitVec 8} : Fits (rowCB op) w ↔ opcode8 w = op := by
  refine ⟨fun (h : w &&& 0xFF000000 = encodeCB op 0 0) => ?_, fun hop => ?_⟩
  · exact (field_of_and_eq h (by decide)).trans (opcode8_encodeCB ..)
  · have hmask : (rowCB op).mask = encodeCB (BitVec.allOnes 8) 0#5 0#19 := by rfl
    rw [Fits, hmask, ← encodeCB_fields hop rfl, encodeCB_and, BitVec.and_allOnes, BitVec.and_zero,
      BitVec.and_zero]
    rfl

theorem fits_rowHlt {w : Word32} : Fits rowHlt w ↔ opcode11 w = 0x6A2#11 ∧ fieldRd w = 0#5 := by
  refine ⟨fun h => ⟨field_of_and_eq h (by decide), field_of_and_eq h (by decide)⟩, fun ⟨hop, hlow⟩ => ?_⟩
  rw [Fits, ← encodeHlt_fields hop hlow]
  exact encodeHlt_mask ..

theorem fits_rowNop {w : Word32} : Fits rowNop w ↔ w = nopWord := by
  have hmask : rowNop.mask = BitVec.allOnes 32 := rfl
  rw [Fits, hmask, BitVec.and_allOnes]
  rfl

/-! ## The formats of REFDEC -/

/-- The formats of R91 to R99. -/
inductive Format where
  | r | i | shift | iw | d | b | bcond | cb | system
deriving DecidableEq

/-- The formats in the order in which `REFDEC` tries them (R101). -/
def Format.all : List Format := [.r, .i, .shift, .iw, .d, .b, .bcond, .cb, .system]

/-- `REFDEC` on the words of one format. -/
def Format.decode : Format → Word32 → Option Instr
  | .r => decodeR
  | .i => decodeI
  | .shift => decodeShift
  | .iw => decodeIW
  | .d => decodeD
  | .b => decodeB
  | .bcond => decodeBcond
  | .cb => decodeCB
  | .system => decodeSystem

/-- The rows of the opcode map that stand for a format. -/
def Format.rows : Format → List OpcodeRow
  | .r => [rowR 0x458 0, rowR 0x558 0, rowR 0x658 0, rowR 0x758 0, rowR 0x450 0, rowR 0x550 0,
      rowR 0x650 0, rowR 0x750 0, rowR 0x4D8 0x1F]
  | .i => [rowI 0x244, rowI 0x2C4, rowI 0x344, rowI 0x3C4]
  | .shift => [rowI 0x34D]
  | .iw => [rowIW]
  | .d => [rowD 0x7C2, rowD 0x7C0, rowD 0x5C2, rowD 0x5C0, rowD 0x3C2, rowD 0x3C0, rowD 0x1C2, rowD 0x1C0]
  | .b => [rowB]
  | .bcond => [rowBcond]
  | .cb => [rowCB 0xB4, rowCB 0xB5]
  | .system => [rowHlt, rowNop]

/-- What a format asks of a word beside its rows: a shift is `LSR` or `LSL` (R93), a condition is one of
six (R97). -/
def Format.limit (f : Format) (w : Word32) : Prop :=
  (f = .shift → w.extractLsb' 10 6 = 63 ∨ w.extractLsb' 16 6 = w.extractLsb' 10 6 + 1) ∧
  (f = .bcond → w.extractLsb' 0 4 ∈ [0x0#4, 0x1#4, 0xA#4, 0xB#4, 0xC#4, 0xD#4])

theorem Format.mem_all (f : Format) : f ∈ Format.all := by
  cases f <;> simp [Format.all]

/-- The opcode map is the rows of the formats, in their order. -/
theorem opcodeMap_eq_rows : opcodeMap = Format.all.flatMap Format.rows := by decide

theorem isSome_ite_some {p : Prop} [Decidable p] {i : Instr} {o : Option Instr} :
    (if p then some i else o).isSome ↔ p ∨ o.isSome := by
  split_ifs with h <;> simp [h]

theorem isSome_ite_none {p : Prop} [Decidable p] {o : Option Instr} :
    (if p then o else none).isSome ↔ p ∧ o.isSome := by
  split_ifs with h <;> simp [h]

/-- A condition of five bits is one of the six exactly when its bit 4 is 0 and the others are (R97). -/
theorem cond_six_iff : ∀ x : BitVec 5,
    (x = 0x00 ∨ x = 0x01 ∨ x = 0x0A ∨ x = 0x0B ∨ x = 0x0C ∨ x = 0x0D) ↔
      x &&& 0x10#5 = 0#5 ∧ x.extractLsb' 0 4 ∈ [0x0#4, 0x1#4, 0xA#4, 0xB#4, 0xC#4, 0xD#4] := by
  decide

/-- A format takes the words that fit one of its rows and respect its limit. -/
theorem Format.decode_isSome (f : Format) (w : Word32) :
    (f.decode w).isSome ↔ (∃ r ∈ f.rows, Fits r w) ∧ f.limit w := by
  cases f with
  | r =>
    by_cases hsh : fieldShamt w = 0#6
    · simp [Format.decode, Format.rows, Format.limit, decodeR, isSome_ite_some, fits_rowR, hsh]
    · simpa [Format.decode, Format.rows, Format.limit, decodeR, isSome_ite_none, fits_rowR, hsh] using and_comm
  | i => simp [Format.decode, Format.rows, Format.limit, decodeI, isSome_ite_some, fits_rowI]
  | shift =>
    have hlimit : Format.limit .shift w ↔ fieldShamt w = 63#6 ∨ fieldImmr w = fieldShamt w + 1#6 := by
      simp [Format.limit, fieldShamt, fieldImmr]
    simp [Format.decode, Format.rows, hlimit, decodeShift, isSome_ite_none, isSome_ite_some, fits_rowI]
  | iw => simp [Format.decode, Format.rows, Format.limit, decodeIW, fits_rowIW]
  | d =>
    by_cases h2 : fieldOp2 w = 0#2
    · simp [Format.decode, Format.rows, Format.limit, decodeD, isSome_ite_some, fits_rowD, h2]
    · simp [Format.decode, Format.rows, Format.limit, decodeD, fits_rowD, h2]
  | b => simp [Format.decode, Format.rows, Format.limit, decodeB, fits_rowB]
  | bcond =>
    have hlow : w.extractLsb' 0 4 = (fieldRd w).extractLsb' 0 4 := by
      rw [fieldRd, BitVec.extractLsb'_extractLsb'_of_le (by decide)]
    have hlimit : Format.limit .bcond w ↔
        (fieldRd w).extractLsb' 0 4 ∈ [0x0#4, 0x1#4, 0xA#4, 0xB#4, 0xC#4, 0xD#4] := by
      simp [Format.limit, hlow]
    by_cases hop : opcode8 w = 0x54#8
    · simpa [Format.decode, Format.rows, hlimit, decodeBcond, isSome_ite_some, fits_rowBcond, hop]
        using cond_six_iff (fieldRd w)
    · simp [Format.decode, Format.rows, decodeBcond, fits_rowBcond, hop]
  | cb => simp [Format.decode, Format.rows, Format.limit, decodeCB, isSome_ite_some, fits_rowCB]
  | system =>
    simp [Format.decode, Format.rows, Format.limit, decodeSystem, isSome_ite_some, fits_rowHlt, fits_rowNop]

theorem findSome_decode_cons (w : Word32) (f : Format) (fs : List Format) :
    (f :: fs).findSome? (Format.decode · w) = (f.decode w <|> fs.findSome? (Format.decode · w)) := by
  rw [List.findSome?_cons]
  cases f.decode w <;> rfl

/-- `REFDEC` answers what the first of its formats answers. -/
theorem decodeMatch_eq_findSome (w : Word32) : decodeMatch w = Format.all.findSome? (Format.decode · w) := by
  simp only [Format.all, findSome_decode_cons]
  simp [decodeMatch, Format.decode]

/-- No word fits a row of each of the two formats. -/
def Format.Separate (f g : Format) : Prop :=
  ∀ r ∈ f.rows, ∀ r' ∈ g.rows, ∀ w : Word32, ¬(Fits r w ∧ Fits r' w)

theorem Format.Separate.symm {f g : Format} (h : f.Separate g) : g.Separate f :=
  fun r hr r' hr' w hw => h r' hr' r hr w hw.symm

theorem Format.separate_of_ne {f g : Format} (hne : f ≠ g) : f.Separate g := by
  have hmap := opcodeMapDisjoint
  rw [Obligations.OpcodeMapDisjoint, opcodeMap_eq_rows, List.pairwise_flatMap] at hmap
  obtain ⟨-, hsep⟩ := hmap
  have hsymm : Std.Symm Format.Separate := ⟨fun _ _ => Format.Separate.symm⟩
  exact List.Pairwise.forall (R := Format.Separate) hsep f.mem_all g.mem_all hne

/-- No word is one of two formats (R101). -/
theorem Format.eq_of_decode {f g : Format} {w : Word32} (hf : (f.decode w).isSome)
    (hg : (g.decode w).isSome) : f = g := by
  obtain ⟨⟨r, hr, hfit⟩, -⟩ := (f.decode_isSome w).mp hf
  obtain ⟨⟨r', hr', hfit'⟩, -⟩ := (g.decode_isSome w).mp hg
  by_contra hne
  exact Format.separate_of_ne hne r hr r' hr' w ⟨hfit, hfit'⟩

/-- The order of the formats does not matter: the decoder's answer is that of any format that has one. -/
theorem decodeWord_eq_ok_iff {w : Word32} {i : Instr} :
    decodeWord w = .ok i ↔ ∃ f : Format, f.decode w = some i := by
  have hmatch : decodeWord w = .ok i ↔ decodeMatch w = some i := by
    unfold decodeWord
    cases decodeMatch w <;> simp
  rw [hmatch, decodeMatch_eq_findSome]
  constructor
  · intro h
    obtain ⟨f, -, hf⟩ := List.exists_of_findSome?_eq_some h
    exact ⟨f, hf⟩
  · rintro ⟨f, hf⟩
    have hsome : (Format.all.findSome? (Format.decode · w)).isSome :=
      List.findSome?_isSome_iff.mpr ⟨f, f.mem_all, by simp [hf]⟩
    obtain ⟨j, hj⟩ := Option.isSome_iff_exists.mp hsome
    obtain ⟨g, -, hg⟩ := List.exists_of_findSome?_eq_some hj
    obtain rfl : f = g := Format.eq_of_decode (w := w) (by simp [hf]) (by simp [hg])
    rw [hj, ← hg, hf]

theorem Format.pattern_eq_shift {f : Format} : ∀ r ∈ f.rows, r.pattern = 0xD3400000 ↔ f = .shift := by
  cases f <;> decide

theorem Format.pattern_eq_bcond {f : Format} : ∀ r ∈ f.rows, r.pattern = 0x54000000 ↔ f = .bcond := by
  cases f <;> decide

/-- Settles O4: a word decodes when a format takes it, and a format takes the words of its rows. -/
theorem decodableWords : Obligations.DecodableWords := by
  intro w
  have hformat : (∃ i, decodeWord w = .ok i) ↔ ∃ f : Format, (f.decode w).isSome := by
    simp only [decodeWord_eq_ok_iff, Option.isSome_iff_exists]
    exact exists_comm
  rw [hformat, opcodeMap_eq_rows]
  constructor
  · rintro ⟨f, hf⟩
    obtain ⟨⟨r, hr, hfit⟩, hlimit⟩ := (f.decode_isSome w).mp hf
    rw [Format.limit, ← f.pattern_eq_shift r hr, ← f.pattern_eq_bcond r hr] at hlimit
    exact ⟨r, List.mem_flatMap.mpr ⟨f, f.mem_all, hr⟩, hfit, hlimit⟩
  · rintro ⟨r, hmem, hfit, hlimit⟩
    obtain ⟨f, -, hr⟩ := List.mem_flatMap.mp hmem
    rw [f.pattern_eq_shift r hr, f.pattern_eq_bcond r hr] at hlimit
    exact ⟨f, (f.decode_isSome w).mpr ⟨⟨r, hr, hfit⟩, hlimit⟩⟩

/-! ## Decoding, then encoding -/

/-- `LSL` by `s`, which is not 0, is written as `immr = -s` and `imms = 63 - s` (R93, R273). -/
theorem lsl_fields_iff {immr imms s : BitVec 6} :
    imms ≠ 63#6 ∧ immr = imms + 1#6 ∧ 63#6 - imms = s ↔ s ≠ 0#6 ∧ -s = immr ∧ 63#6 - s = imms := by
  constructor <;> bv_omega

/-- What a format reads from a word is a well-formed instruction, whose word it is. -/
theorem encode_of_format {f : Format} {w : Word32} {i : Instr} (h : f.decode w = some i) :
    i.wellFormed = true ∧ encode i = w := by
  cases f <;> simp only [Format.decode] at h
  case r =>
    unfold decodeR at h
    split_ifs at h <;> cases h <;> exact ⟨rfl, encodeR_fields ‹_› ‹_›⟩
  case i =>
    unfold decodeI at h
    split_ifs at h <;> cases h <;> exact ⟨rfl, encodeI_fields ‹_›⟩
  case shift =>
    unfold decodeShift at h
    split_ifs at h with hop h63 hr <;> cases h
    · exact ⟨rfl, encodeShift_fields hop rfl h63⟩
    · obtain ⟨h0, himmr, himms⟩ := lsl_fields_iff.mp ⟨h63, hr, rfl⟩
      exact ⟨bne_iff_ne.mpr h0, encodeShift_fields hop himmr.symm himms.symm⟩
  case iw =>
    unfold decodeIW at h
    split_ifs at h with hop
    cases h
    exact ⟨rfl, encodeIW_fields hop⟩
  case d =>
    unfold decodeD at h
    split_ifs at h <;> cases h <;> exact ⟨rfl, encodeD_fields ‹_› ‹_›⟩
  case b =>
    unfold decodeB at h
    split_ifs at h with hop
    cases h
    exact ⟨rfl, encodeB_fields hop⟩
  case bcond =>
    unfold decodeBcond at h
    split_ifs at h <;> cases h <;> exact ⟨rfl, encodeCB_fields ‹_› ‹_›⟩
  case cb =>
    unfold decodeCB at h
    split_ifs at h <;> cases h <;> exact ⟨rfl, encodeCB_fields ‹_› rfl⟩
  case system =>
    unfold decodeSystem at h
    split_ifs at h with hhlt hnop <;> cases h
    · obtain ⟨hop, hlow⟩ := hhlt
      exact ⟨rfl, encodeHlt_fields hop hlow⟩
    · exact ⟨rfl, hnop.symm⟩

/-- Settles O2: the answer is that of one format, and each format keeps every bit of its word. -/
theorem encodeOfDecode : Obligations.EncodeOfDecode := by
  intro w i h
  obtain ⟨f, hf⟩ := decodeWord_eq_ok_iff.mp h
  exact encode_of_format hf

/-! ## Encoding, then decoding -/

/-- The word of a well-formed instruction is decoded by the instruction's own format. -/
theorem exists_format_decode_encode {i : Instr} (h : i.wellFormed = true) :
    ∃ f : Format, f.decode (encode i) = some i := by
  cases i
  case add | adds | sub | subs | and | ands | orr | eor | mul =>
    exact ⟨.r, by simp [Format.decode, decodeR, encode]⟩
  case addi | addis | subi | subis => exact ⟨.i, by simp [Format.decode, decodeI, encode]⟩
  case lsr => exact ⟨.shift, by simp [Format.decode, decodeShift, encode]⟩
  case lsl rd rn shift =>
    obtain ⟨h63, himmr, hs⟩ := lsl_fields_iff.mpr ⟨bne_iff_ne.mp h, rfl, rfl⟩
    exact ⟨.shift, by simp [Format.decode, decodeShift, encode, h63, himmr, hs]⟩
  case movz => exact ⟨.iw, by simp [Format.decode, decodeIW, encode]⟩
  case ldur | ldurw | ldurh | ldurb | stur | sturw | sturh | sturb =>
    exact ⟨.d, by simp [Format.decode, decodeD, encode]⟩
  case b => exact ⟨.b, by simp [Format.decode, decodeB, encode]⟩
  case bEq | bNe | bGe | bLt | bGt | bLe => exact ⟨.bcond, by simp [Format.decode, decodeBcond, encode]⟩
  case cbz | cbnz => exact ⟨.cb, by simp [Format.decode, decodeCB, encode]⟩
  case hlt => exact ⟨.system, by simp [Format.decode, decodeSystem, encode]⟩
  case nop => exact ⟨.system, rfl⟩

theorem tableBytes_toNat (w : Word32) :
    tableBytes 32 w.toNat =
      [w.extractLsb' 0 8, w.extractLsb' 8 8, w.extractLsb' 16 8, w.extractLsb' 24 8] := by
  have hbyte : ∀ k, BitVec.ofNat 8 (w.toNat % 2 ^ 32 / 256 ^ k) = w.extractLsb' (8 * k) 8 := by
    intro k
    apply BitVec.eq_of_toNat_eq
    rw [Nat.mod_eq_of_lt w.isLt, BitVec.extractLsb'_toNat, BitVec.toNat_ofNat, Nat.shiftRight_eq_div_pow,
      Nat.pow_mul]
  exact List.map_congr_left fun k _ => hbyte k

theorem wordOfBytes_extract (w : Word32) :
    wordOfBytes (w.extractLsb' 0 8) (w.extractLsb' 8 8) (w.extractLsb' 16 8) (w.extractLsb' 24 8) = w := by
  unfold wordOfBytes
  iterate 3 rw [BitVec.extractLsb'_append_extractLsb'_eq_extractLsb' (by rfl)]
  exact BitVec.extractLsb'_eq_self

/-- The decoder reads from the four bytes of a word what it reads from the word (R90). -/
theorem decodeTableWord_toNat {w : Word32} {i : Instr} (h : decodeWord w = .ok i) :
    decodeTableWord 32 w.toNat = some i := by
  have hbytes : decodeBytes (tableBytes 32 w.toNat) = .ok (i, []) := by
    rw [tableBytes_toNat, decodeBytes, wordOfBytes_extract, h]
    rfl
  rw [decodeTableWord, hbytes]

/-- Settles O1: the word decodes in the format of its instruction, and the bytes hold the same word. -/
theorem decodeOfEncode : Obligations.DecodeOfEncode := by
  intro i h
  have hword : decodeWord (encode i) = .ok i := decodeWord_eq_ok_iff.mpr (exists_format_decode_encode h)
  exact ⟨hword, decodeTableWord_toNat hword⟩

/-! ## The words of `HLT` (R99) -/

theorem refIsHalt_iff {w : Word32} : refIsHalt w = true ↔ opcode11 w = 0x6A2#11 ∧ fieldRd w = 0#5 := by
  rw [← fits_rowHlt, refIsHalt, beq_iff_eq]
  rfl

/-- Settles O7: `IsHalt` tests the fixed fields of the system format, which only `HLT` words have. -/
theorem isHaltIsHlt : Obligations.IsHaltIsHlt := by
  intro w
  rw [refIsHalt_iff]
  constructor
  · rintro ⟨hop, hlow⟩
    refine ⟨fieldImm16 w, decodeWord_eq_ok_iff.mpr ⟨.system, ?_⟩⟩
    exact if_pos ⟨hop, hlow⟩
  · rintro ⟨imm16, h⟩
    obtain ⟨-, rfl⟩ := encodeOfDecode w _ h
    exact ⟨opcode11_encodeHlt imm16, fieldRd_encodeHlt imm16⟩

end Sys2Proof.Encoding
end

section
/-!
PROOFS of O6: the contract of a decoder service (30_encoding.md R86, R87) for each shape of control record,
and for `REFDEC` from the shapes.
-/

namespace Sys2Proof.Encoding
open Sys2Proof.Machine

theorem recordMeetsContract_reg (op : AluOp) (flags : Bool) (rd rn rm : Reg) :
    recordMeetsContract (regRecord op flags rd rn rm) := by
  simp [recordMeetsContract, regRecord, blankRecord, ExCtl.zero, MemCtl.zero, needsA, needsB]

theorem recordMeetsContract_imm (op : AluOp) (flags : Bool) (rd rn : Reg) (imm : Word) :
    recordMeetsContract (immRecord op flags rd rn imm) := by
  simp [recordMeetsContract, immRecord, blankRecord, ExCtl.zero, MemCtl.zero, needsA, needsB]

theorem recordMeetsContract_compare {d : Decoded} (h : recordMeetsContract d) :
    recordMeetsContract (compareRecord d) := by
  obtain ⟨hbr, hcontrol, hrest, hcond, hrw, hdata, hload, ha, hb, -, hcb, hb'⟩ := h
  refine ⟨hbr, fun hk => ?_, hrest, hcond, hrw, hdata, hload, ha, hb, fun _ => rfl, hcb, hb'⟩
  obtain ⟨hbranch, -, hmem⟩ := hcontrol hk
  exact ⟨hbranch, rfl, hmem⟩

theorem recordMeetsContract_load (wd : Width) (rt rn : Reg) (imm9 : BitVec 9) :
    recordMeetsContract (loadRecord wd rt rn imm9) := by
  simp [recordMeetsContract, loadRecord, blankRecord, ExCtl.zero, MemCtl.zero, needsA, needsB]

theorem recordMeetsContract_store (wd : Width) (rt rn : Reg) (imm9 : BitVec 9) :
    recordMeetsContract (storeRecord wd rt rn imm9) := by
  simp [recordMeetsContract, storeRecord, blankRecord, ExCtl.zero, MemCtl.zero, WbCtl.zero, needsA, needsB]

theorem recordMeetsContract_branch {k : BrKind} (hk : k = .uncond ∨ k = .cond) (cc : Cc) (off : Word) :
    recordMeetsContract (branchRecord k cc off) := by
  rcases hk with rfl | rfl <;>
    simp [recordMeetsContract, branchRecord, blankRecord, ExCtl.zero, MemCtl.zero, WbCtl.zero, needsA, needsB]

theorem recordMeetsContract_compareBranch {k : BrKind} (hk : k = .cbz ∨ k = .cbnz) (rt : Reg) (off : Word) :
    recordMeetsContract (compareBranchRecord k rt off) := by
  rcases hk with rfl | rfl <;>
    simp [recordMeetsContract, compareBranchRecord, branchRecord, blankRecord, ExCtl.zero, MemCtl.zero,
      WbCtl.zero, needsA, needsB]

theorem recordMeetsContract_system : recordMeetsContract systemRecord := by
  simp [recordMeetsContract, systemRecord, blankRecord, ExCtl.zero, MemCtl.zero, WbCtl.zero, needsA, needsB]

/-- Items 3 to 6 and 8 of R86 for every instruction's record, shape by shape. -/
theorem recordMeetsContract_recordOf (i : Instr) : recordMeetsContract (recordOf i) := by
  cases i
  case subs rd rn rm =>
    show recordMeetsContract (recSubs rd rn rm)
    unfold recSubs
    split
    · exact recordMeetsContract_compare (recordMeetsContract_reg ..)
    · exact recordMeetsContract_reg ..
  case subis rd rn imm =>
    show recordMeetsContract (recSubis rd rn imm)
    unfold recSubis
    split
    · exact recordMeetsContract_compare (recordMeetsContract_imm ..)
    · exact recordMeetsContract_imm ..
  case add | adds | sub | and | ands | orr | eor | mul => exact recordMeetsContract_reg ..
  case addi | addis | subi | lsl | lsr | movz => exact recordMeetsContract_imm ..
  case ldur | ldurw | ldurh | ldurb => exact recordMeetsContract_load ..
  case stur | sturw | sturh | sturb => exact recordMeetsContract_store ..
  case b => exact recordMeetsContract_branch (.inl rfl) ..
  case bEq | bNe | bGe | bLt | bGt | bLe => exact recordMeetsContract_branch (.inr rfl) ..
  case cbz => exact recordMeetsContract_compareBranch (.inl rfl) ..
  case cbnz => exact recordMeetsContract_compareBranch (.inr rfl) ..
  case hlt | nop => exact recordMeetsContract_system

theorem refDecode_cases (w : Word32) :
    (∃ i, refDecode w = recordOf i) ∨ refDecode w = invalidRecord := by
  unfold refDecode
  cases decodeWord w with
  | ok i => exact .inl ⟨i, rfl⟩
  | error e => exact .inr rfl

theorem refDecode_of_halt {w : Word32} (h : refIsHalt w = true) : refDecode w = systemRecord := by
  obtain ⟨imm16, hw⟩ := (isHaltIsHlt w).mp h
  rw [refDecode, hw]
  rfl

/-- Settles O6: every record of an instruction meets the contract, and the words `IsHalt` takes are `HLT`. -/
theorem refdecMeetsContract : Obligations.RefdecMeetsContract := by
  refine ⟨fun w => ?_, fun w hvalid => ?_, fun w hhalt => ?_⟩
  · show isBubble (refDecode w).kind = false
    rcases refDecode_cases w with ⟨i, hi⟩ | hi <;> rw [hi]
    · obtain ⟨-, hbubble⟩ := recordOf_kind i
      exact hbubble
    · rfl
  · show recordMeetsContract (refDecode w)
    rcases refDecode_cases w with ⟨i, hi⟩ | hi
    · rw [hi]
      exact recordMeetsContract_recordOf i
    · exact absurd (congrArg Decoded.kind hi) hvalid
  · have hsys : refdec.decode w = systemRecord := refDecode_of_halt hhalt
    rw [hsys]
    exact ⟨rfl, rfl, rfl, rfl, rfl, rfl⟩

end Sys2Proof.Encoding
end

section
/-!
PROOFS of O54: the flags after a compare (44_execute.md R192, R193) and the six conditions (30_encoding.md
R83) as comparisons of the operands.
-/

namespace Sys2Proof.Encoding
open Sys2Proof.Machine

/-- `Z` after a compare (44_execute.md R193). -/
theorem zeroFlag_cmp (a b : Word) : zeroFlag (alu .cmp a b) = decide (a = b) := by
  show (a - b == 0#64) = decide (a = b)
  rw [Bool.eq_iff_iff, beq_iff_eq, decide_eq_true_iff, BitVec.sub_eq_iff_eq_add, BitVec.zero_add]

/-- `N` after a compare is the signed comparison where the difference does not overflow. -/
theorem negFlag_cmp {a b : Word} (hlo : -2 ^ 63 ≤ a.toInt - b.toInt) (hhi : a.toInt - b.toInt < 2 ^ 63) :
    negFlag (alu .cmp a b) = decide (a.toInt < b.toInt) := by
  have hfit : (a - b).toInt = a.toInt - b.toInt := by
    rw [BitVec.toInt_sub]
    exact Int.bmod_eq_of_le hlo hhi
  calc negFlag (alu .cmp a b) = (a - b).msb := (BitVec.msb_eq_getLsbD_last _).symm
    _ = decide ((a - b).toInt < 0) := BitVec.msb_eq_toInt
    _ = decide (a.toInt < b.toInt) := by rw [hfit, decide_eq_decide]; omega

/-- Settles O54: `Z` says that the operands are equal, and `N` that the first is less. -/
theorem signedConditions : Obligations.SignedConditions := by
  intro a b
  rw [zeroFlag_cmp]
  refine ⟨rfl, (decide_not ..).symm, fun ⟨hlo, hhi⟩ => ?_⟩
  have heq : a = b ↔ a.toInt = b.toInt := BitVec.toInt_inj.symm
  rw [negFlag_cmp hlo hhi, decide_eq_decide.mpr heq]
  refine ⟨rfl, ?_, ?_, ?_⟩ <;> simp only [ccHolds]
  · rw [← decide_not, decide_eq_decide]
    omega
  · rw [← decide_not, ← decide_not, ← Bool.decide_and, decide_eq_decide]
    omega
  · rw [← Bool.decide_or, decide_eq_decide]
    omega

end Sys2Proof.Encoding
end

section
/-!
PROOFS about the branch predictor (41_predictor.md): what `Update` does to each of the three tables, what
`Predict` answers, and that in a cycle only Execute updates it, each said once.
-/

namespace Sys2Proof.Machine.Prediction

/-! ## Update (R131) -/

/-- The counter moves by one towards the outcome and stops at 3 and at 0. -/
theorem phtBump_toNat : ∀ (taken : Bool) (c : BitVec 2),
    (phtBump taken c).toNat = if taken then min 3 (c.toNat + 1) else c.toNat - 1 := by decide

/-- The history shifted left by one bit, the outcome or-ed in: the oldest outcome drops out. -/
theorem shiftLeft_or_outcome (g : BitVec 8) (taken : Bool) :
    (g <<< 1) ||| (if taken then 1 else 0) = g.extractLsb' 0 7 ++ BitVec.ofBool taken := by
  change _ = BitVec.concat (g.extractLsb' 0 7) taken
  ext i hi
  cases i with
  | zero => cases taken <;> simp
  | succ i => cases taken <;> simp [BitVec.getLsbD_eq_getElem (show i < 8 by omega)]

theorem predUpdate_btb (isCond taken : Bool) (pc target : Word) (b : Predictor) (i : Nat) :
    tableGet (predUpdate isCond taken pc target b).btb i =
      if i = btbIndex pc then some { tag := pc, isCond := isCond, target := target }
      else tableGet b.btb i := by
  have hbtb : (predUpdate isCond taken pc target b).btb =
      tablePut b.btb (btbIndex pc) { tag := pc, isCond := isCond, target := target } := by
    cases isCond <;> rfl
  rw [hbtb, tableGet_put]

theorem predUpdate_pht (isCond taken : Bool) (pc target : Word) (b : Predictor) (i : Nat) :
    phtGet (predUpdate isCond taken pc target b) i =
      if isCond = true ∧ i = phtIndex b pc then phtBump taken (phtGet b i) else phtGet b i := by
  cases isCond with
  | false => simp [predUpdate, phtGet]
  | true =>
    by_cases hi : i = phtIndex b pc <;> simp [predUpdate, phtGet, sparseGet_set, hi]

theorem predUpdate_ghr (isCond taken : Bool) (pc target : Word) (b : Predictor) :
    (predUpdate isCond taken pc target b).ghr =
      if isCond then b.ghr.extractLsb' 0 7 ++ BitVec.ofBool taken else b.ghr := by
  cases isCond with
  | false => rfl
  | true => exact shiftLeft_or_outcome b.ghr taken

/-- Settles O55, table by table. -/
theorem predictorUpdate : Obligations.PredictorUpdate := by
  intro b isCond taken pc target
  refine ⟨predUpdate_btb isCond taken pc target b, fun i => ?_, predUpdate_ghr isCond taken pc target b⟩
  rw [predUpdate_pht, apply_ite BitVec.toNat, phtBump_toNat]
  rfl

/-! ## Predict (R130) -/

/-- An address with no entry of its own in the BTB is predicted not taken. -/
theorem predict_miss {b : Predictor} {pc : Word}
    (h : ∀ e, tableGet b.btb (btbIndex pc) = some e → e.tag ≠ pc) : predict b pc = (false, pc + 4) := by
  unfold predict
  cases he : tableGet b.btb (btbIndex pc) with
  | none => rfl
  | some e => exact if_pos (h e he)

/-- An entry of the address itself: taken where the branch is unconditional or its counter is above 1. -/
theorem predict_hit {b : Predictor} {pc : Word} {e : BtbEntry}
    (h : tableGet b.btb (btbIndex pc) = some e) (htag : e.tag = pc) :
    predict b pc =
      if e.isCond = false ∨ 1 < (phtGet b (phtIndex b pc)).toNat then (true, e.target)
      else (false, pc + 4) := by
  unfold predict
  rw [h]
  cases hc : e.isCond <;> simp [htag, hc, BitVec.lt_def, fallThrough]

/-- Settles O56: the entry of `pc` is the one just written, and it is the entry of no other address. -/
theorem predictAfterUpdate : Obligations.PredictAfterUpdate := by
  intro b isCond taken pc target
  have hown : tableGet (predUpdate isCond taken pc target b).btb (btbIndex pc) =
      some { tag := pc, isCond := isCond, target := target } := by rw [predUpdate_btb, if_pos rfl]
  refine ⟨fun hc => ?_, fun hc => ?_, fun pc' hne hidx => predict_miss fun e he => ?_⟩
  · rw [predict_hit hown rfl, if_pos (.inl hc)]
  · rw [predict_hit hown rfl]
    simp [hc, phtIndex]
  · have hsame : btbIndex pc' = btbIndex pc := congrArg BitVec.toNat hidx
    rw [hsame, hown] at he
    obtain rfl := Option.some.inj he
    exact hne.symm

/-! ## Who updates (R134) -/

/-- The hazard unit forwards values and flags into `DEEX`; the control fields of the instruction are as
they were (42_hazard_forwarding.md R143, R145, R148). -/
theorem hazardUnit_deex_control (s : State) :
    (hazardUnit s).deex.valid = s.deex.valid ∧ (hazardUnit s).deex.kind = s.deex.kind ∧
      (hazardUnit s).deex.pc = s.deex.pc ∧ (hazardUnit s).deex.offset = s.deex.offset ∧
      (hazardUnit s).deex.ex = s.deex.ex := by
  unfold hazardUnit
  split_ifs
  · simp
  · unfold patchedDeEx
    split_ifs <;> simp

/-- `Update` is told of every branch but an unconditional one that it is conditional (R201). -/
theorem updatesHistory_eq (k : BrKind) : updatesHistory k = decide (k ≠ .uncond) := by
  cases k <;> rfl

theorem executeInstr_pred (p : Params) (s : State) :
    (executeInstr p s).pred =
      if s.deex.kind = .control then
        predUpdate (updatesHistory s.deex.ex.brKind) (branchTaken s) s.deex.pc (branchTarget s.deex) s.pred
      else s.pred := by
  unfold executeInstr
  split_ifs <;> simp [resolveBranch]

/-- Execute leaves the predictor as it was, or trains it with the branch it executes (R199 to R201, R204). -/
theorem executeStage_pred_cases (p : Params) (s : State) :
    (executeStage p s).pred = s.pred ∨
    (s.exHalted = false ∧ s.deex.valid = true ∧ s.deex.kind = .control ∧
      (executeStage p s).pred =
        predUpdate (updatesHistory s.deex.ex.brKind) (branchTaken s) s.deex.pc (branchTarget s.deex)
          s.pred) := by
  unfold executeStage
  split_ifs with hgate hvalid
  · exact .inl rfl
  · exact .inl rfl
  · exact .inl rfl
  · exact .inl rfl
  · rw [executeInstr_pred]
    split_ifs with hbranch
    · simp only [Bool.or_eq_true, not_or, Bool.not_eq_true] at hgate
      exact .inr ⟨hgate.1, by simpa using hvalid, hbranch, rfl⟩
    · exact .inl rfl

/-- What a cycle up to Decode does to the predictor, said of the branch that the cycle finds in `DEEX`: the
hazard unit, Writeback and Memory keep its address and target for Execute. -/
theorem beforeDecode_pred_cases (s : State) :
    (beforeDecode s).pred = s.pred ∨
    (s.exHalted = false ∧ s.deex.valid = true ∧ s.deex.kind = .control ∧
      (beforeDecode s).pred =
        predUpdate (decide (s.deex.ex.brKind ≠ .uncond)) (branchTaken (afterMemory s)) s.deex.pc
          (s.deex.pc + 4 * s.deex.offset) s.pred) := by
  have hpred : (afterMemory s).pred = s.pred := by simp [afterMemory]
  have hhalt : (afterMemory s).exHalted = s.exHalted := by simp [afterMemory]
  have hdeex : (afterMemory s).deex = (hazardUnit s).deex := by simp [afterMemory]
  obtain ⟨hvalid, hkind, hpc, hoffset, hex⟩ := hazardUnit_deex_control s
  rw [beforeDecode_eq]
  rcases Backing.unlessFatal_cases (executeStage defaultParams) (afterMemory s) with h | h <;> rw [h]
  · exact .inl hpred
  · simpa only [hpred, hhalt, hdeex, hvalid, hkind, hpc, hoffset, hex, updatesHistory_eq, branchTarget]
      using executeStage_pred_cases defaultParams (afterMemory s)

/-- Of a cycle only Execute can change the predictor. -/
theorem cycleWith_pred {d : Decoded} {s : State} (h : s.status = .running) :
    (cycleWith defaultParams refIsHalt d s).pred = (beforeDecode s).pred :=
  (cycleWith_keeps State.pred (fun _ _ => rfl) (fun _ _ => by simp) (fun _ => by simp) h).trans
    (unlessFatal_keeps State.pred (by simp) _)

/-- Settles O25: the predictor after a cycle is the one Execute left, and the instruction that Execute finds
in `DEEX` is the one that stood there, with forwarded values. -/
theorem predictorChangesByBranches : Obligations.PredictorChangesByBranches := by
  intro s t hstep hne
  obtain ⟨d, rfl⟩ := Backing.next_eq_cycle hstep
  have hr : s.status = .running := by
    by_contra hstop
    exact hne (congrArg State.pred (cycleWith_stopped hstop))
  rw [cycleWith_pred hr] at hne ⊢
  rcases beforeDecode_pred_cases s with hkeep | ⟨hhalt, hvalid, hkind, htrained⟩
  · exact absurd hkeep hne
  · rw [htrained]
    exact ⟨hr, hvalid, hkind, hhalt, _, predictorUpdate ..⟩

end Sys2Proof.Machine.Prediction
end

section
/-!
PROOFS about the front end (43_fetch_decode.md): what Decode, Fetch and the ticks can do to a state, said
once, and which fatal faults a cycle raises outside Decode.
-/

namespace Sys2Proof.Machine.FrontEnd

/-! ## The cycle of a step -/

/-- The record a step gives to Decode is the decoder's answer for the word in `IFDE`. -/
theorem step_eq_refDecode (s : State) :
    step s = .next (cycleWith defaultParams refIsHalt (refDecode s.ifde.word) s) := by
  unfold step refDecode
  cases decodeWord s.ifde.word with
  | ok i => exact exec_eq_issue i s
  | error e => rfl

theorem next_eq_refDecode {s t : State} (h : step s = .next t) :
    t = cycleWith defaultParams refIsHalt (refDecode s.ifde.word) s :=
  (Host.Outcome.next.inj ((step_eq_refDecode s).symm.trans h)).symm

theorem refDecode_ok {w : Word32} {i : Instr} (h : decodeWord w = .ok i) : refDecode w = recordOf i := by
  rw [refDecode, h]

theorem refDecode_error {w : Word32} {e : Reject} (h : decodeWord w = .error e) :
    refDecode w = invalidRecord := by
  rw [refDecode, h]

/-- What holds before a procedure, and after it where it runs, holds whether or not a fault was raised. -/
theorem unlessFatal_preserves {P : State → Prop} {f : State → State} {s : State} (hs : P s)
    (hf : isFatal s = false → P (f s)) : P (unlessFatal f s) := by
  cases h : isFatal s with
  | true => rwa [unlessFatal_fatal h]
  | false => rw [unlessFatal_ok h]; exact hf h

/-- The state after Decode. -/
def afterDecode (s : State) : State :=
  unlessFatal (decodeStage (refDecode s.ifde.word)) (beforeDecode s)

/-- The state after Fetch. -/
def afterFetch (s : State) : State :=
  unlessFatal (fetchStage defaultParams refIsHalt) (afterDecode s)

theorem step_eq_afterFetch {s : State} (h : s.status = .running) :
    step s = .next (unlessFatal (cycleEnd defaultParams) (afterFetch s)) := by
  rw [step_eq_refDecode, cycleWith_beforeDecode h]
  rfl

/-! ## What the ticks leave alone (40_cache.md R118) -/

@[simp] theorem cycleEnd_pc (s : State) : (cycleEnd defaultParams s).pc = s.pc :=
  cycleEnd_keeps State.pc (fun _ _ => rfl) (fun _ _ => by simp) s
@[simp] theorem cycleEnd_z (s : State) : (cycleEnd defaultParams s).z = s.z :=
  cycleEnd_keeps State.z (fun _ _ => rfl) (fun _ _ => by simp) s
@[simp] theorem cycleEnd_n (s : State) : (cycleEnd defaultParams s).n = s.n :=
  cycleEnd_keeps State.n (fun _ _ => rfl) (fun _ _ => by simp) s
@[simp] theorem cycleEnd_controlStalled (s : State) : (cycleEnd defaultParams s).controlStalled = s.controlStalled :=
  cycleEnd_keeps State.controlStalled (fun _ _ => rfl) (fun _ _ => by simp) s
@[simp] theorem cycleEnd_dcacheStalled (s : State) : (cycleEnd defaultParams s).dcacheStalled = s.dcacheStalled :=
  cycleEnd_keeps State.dcacheStalled (fun _ _ => rfl) (fun _ _ => by simp) s
@[simp] theorem cycleEnd_feHalted (s : State) : (cycleEnd defaultParams s).feHalted = s.feHalted :=
  cycleEnd_keeps State.feHalted (fun _ _ => rfl) (fun _ _ => by simp) s
@[simp] theorem cycleEnd_deHalted (s : State) : (cycleEnd defaultParams s).deHalted = s.deHalted :=
  cycleEnd_keeps State.deHalted (fun _ _ => rfl) (fun _ _ => by simp) s
@[simp] theorem cycleEnd_exHalted (s : State) : (cycleEnd defaultParams s).exHalted = s.exHalted :=
  cycleEnd_keeps State.exHalted (fun _ _ => rfl) (fun _ _ => by simp) s
@[simp] theorem cycleEnd_memHalted (s : State) : (cycleEnd defaultParams s).memHalted = s.memHalted :=
  cycleEnd_keeps State.memHalted (fun _ _ => rfl) (fun _ _ => by simp) s
@[simp] theorem cycleEnd_ifde (s : State) : (cycleEnd defaultParams s).ifde = s.ifde :=
  cycleEnd_keeps State.ifde (fun _ _ => rfl) (fun _ _ => by simp) s
@[simp] theorem cycleEnd_deex (s : State) : (cycleEnd defaultParams s).deex = s.deex :=
  cycleEnd_keeps State.deex (fun _ _ => rfl) (fun _ _ => by simp) s
@[simp] theorem cycleEnd_exmem (s : State) : (cycleEnd defaultParams s).exmem = s.exmem :=
  cycleEnd_keeps State.exmem (fun _ _ => rfl) (fun _ _ => by simp) s
@[simp] theorem cycleEnd_memwb (s : State) : (cycleEnd defaultParams s).memwb = s.memwb :=
  cycleEnd_keeps State.memwb (fun _ _ => rfl) (fun _ _ => by simp) s
@[simp] theorem cycleEnd_pred (s : State) : (cycleEnd defaultParams s).pred = s.pred :=
  cycleEnd_keeps State.pred (fun _ _ => rfl) (fun _ _ => by simp) s
@[simp] theorem cycleEnd_mem (s : State) : (cycleEnd defaultParams s).mem = s.mem :=
  cycleEnd_keeps State.mem (fun _ _ => rfl) (fun _ _ => by simp) s

/-! ## The fault a procedure may raise -/

/-- From `s` to `t` the status is kept, or a fatal fault is raised that is not Decode's. -/
def KeepsOrFaults (s t : State) : Prop :=
  t.status = s.status ∨ ∃ i, t.status = .fatal i ∧ ∀ w pc, i ≠ .decodeFault w pc

theorem KeepsOrFaults.of_eq {s t : State} (h : t.status = s.status) : KeepsOrFaults s t := .inl h

theorem KeepsOrFaults.trans {s t u : State} (h1 : KeepsOrFaults s t) (h2 : KeepsOrFaults t u) :
    KeepsOrFaults s u := by
  rcases h2 with h2 | h2
  · rcases h1 with h1 | ⟨i, h1, hi⟩
    · exact .inl (h2.trans h1)
    · exact .inr ⟨i, h2.trans h1, hi⟩
  · exact .inr h2

theorem KeepsOrFaults.halted {s t : State} (h : KeepsOrFaults s t) (ht : t.status = .halted) :
    s.status = .halted := by
  rcases h with h | ⟨i, h, -⟩
  · exact h.symm.trans ht
  · rw [ht] at h; cases h

theorem KeepsOrFaults.decodeFault {s t : State} (h : KeepsOrFaults s t) {w : Word32} {pc : Word}
    (ht : t.status = .fatal (.decodeFault w pc)) : s.status = .fatal (.decodeFault w pc) := by
  rcases h with h | ⟨i, h, hi⟩
  · exact h.symm.trans ht
  · rw [ht] at h
    exact absurd (Status.fatal.inj h).symm (hi w pc)

theorem KeepsOrFaults.unlessFatal {f : State → State} {s : State} (h : KeepsOrFaults s (f s)) :
    KeepsOrFaults s (unlessFatal f s) :=
  unlessFatal_preserves (P := KeepsOrFaults s) (.of_eq rfl) fun _ => h

theorem keepsOrFaults_cacheRead (p : Params) (c : CacheId) (a : Word) (n : Nat) (s : State) :
    KeepsOrFaults s (cacheRead p c a n s).2 := by
  rcases cacheRead_cases p c a n s with ⟨-, h⟩ | ⟨-, q, -, h⟩ | ⟨-, -, i, l, -, h⟩ | ⟨-, -, -, h⟩ <;> rw [h]
  · exact .inr ⟨_, rfl, nofun⟩
  · exact .of_eq rfl
  · exact .of_eq (by simp)
  · exact .of_eq (by simp)

theorem keepsOrFaults_cacheWrite (p : Params) (c : CacheId) (a : Word) (n : Nat) (v : Word) (s : State) :
    KeepsOrFaults s (cacheWrite p c a n v s).2 := by
  have hread := keepsOrFaults_cacheRead p c a n s
  unfold cacheWrite
  split
  · rename_i d i s1 e
    rw [e] at hread
    split
    · exact hread.trans (.of_eq (by simp))
    · exact hread
  · exact hread

theorem keepsOrFaults_dataAccess (p : Params) (s : State) : KeepsOrFaults s (dataAccess p s).2 := by
  unfold dataAccess
  split
  · exact keepsOrFaults_cacheRead ..
  · exact keepsOrFaults_cacheWrite ..

theorem keepsOrFaults_memoryMove (p : Params) (s : State) : KeepsOrFaults s (memoryMove p s) := by
  by_cases hp : passesThrough s.exmem = true
  · exact .of_eq (by simp [memoryMove, hp])
  rw [Bool.not_eq_true] at hp
  have hacc := keepsOrFaults_dataAccess p s
  rcases h : dataAccess p s with ⟨_ | k | ⟨d, i⟩, s1⟩ <;> rw [h] at hacc
  · rwa [memoryMove_raised hp h]
  · rw [memoryMove_waiting hp h]; exact hacc.trans (.of_eq (by simp))
  · rw [memoryMove_done hp h]; exact hacc.trans (.of_eq (by simp))

theorem keepsOrFaults_memoryStage (p : Params) (s : State) : KeepsOrFaults s (memoryStage p s) := by
  unfold memoryStage
  split_ifs
  · exact .of_eq rfl
  · exact .of_eq rfl
  · have hmove := keepsOrFaults_memoryMove p (restoreExMem s)
    rwa [KeepsOrFaults, restoreExMem_status] at hmove

theorem keepsOrFaults_fetchStage (p : Params) (f : Word32 → Bool) (s : State) :
    KeepsOrFaults s (fetchStage p f s) := by
  unfold fetchStage fetchOpen
  split_ifs
  · exact .of_eq rfl
  · exact .of_eq rfl
  · have hread := keepsOrFaults_cacheRead p .ic s.pc 4 s
    split <;> (rename_i e; rw [e] at hread)
    · exact hread
    · exact hread.trans (.of_eq rfl)
    · exact hread.trans (.of_eq rfl)

theorem keepsOrFaults_tickQueries (p : Params) (c : CacheId) (kept qs : List Query) (s : State) :
    KeepsOrFaults s (tickQueries p c kept qs s) := by
  induction qs generalizing kept s with
  | nil => exact .of_eq (by simp [tickQueries])
  | cons q rest ih =>
    unfold tickQueries
    split_ifs
    · exact .inr ⟨_, rfl, nofun⟩
    · exact (KeepsOrFaults.of_eq (by simp)).trans (ih kept (cacheFill p c q.base s))
    · exact ih _ s

theorem keepsOrFaults_cycleEnd (s : State) : KeepsOrFaults s (cycleEnd defaultParams s) := by
  have hic : KeepsOrFaults s (cacheTick defaultParams .ic s) := keepsOrFaults_tickQueries ..
  have hdc := hic.trans (.unlessFatal (f := cacheTick defaultParams .dc) (keepsOrFaults_tickQueries ..))
  exact hdc.trans (.unlessFatal (.of_eq rfl))

/-! ## Decode -/

/-- Decode hands on the halted flag of Fetch as it is when it had none of its own (R175). -/
theorem propagateDeHalt_of_not_halted {s : State} (h : s.deHalted = false) :
    propagateDeHalt s = { s with deHalted := s.feHalted } := by
  unfold propagateDeHalt
  split_ifs with hf
  · simp [hf]
  · cases s
    simp_all

theorem issueDecoded_invalid {d : Decoded} (h : d.kind = .invalid) (s : State) :
    issueDecoded d s = raiseFatal (.decodeFault s.ifde.word s.ifde.pc) s := if_pos h

theorem issueDecoded_valid {d : Decoded} {s : State} (h : d.kind ≠ .invalid) (hd : s.deHalted = false) :
    issueDecoded d s = { s with deex := deExOf d s, deHalted := s.feHalted } :=
  (if_neg h).trans (propagateDeHalt_of_not_halted hd)

/-- Everything Decode can do (R167 to R175): nothing, a bubble, the fault of an undecodable word, or the
move of a decoded instruction with its halted flag. -/
theorem decodeStage_cases (d : Decoded) (s : State) :
    decodeStage d s = s ∨
    (s.deHalted = false ∧ ∃ x, decodeStage d s = { s with deex := x }) ∨
    (s.deHalted = false ∧ s.dataStalled = false ∧ IfdeReady s ∧ d.kind = .invalid ∧
      decodeStage d s = raiseFatal (.decodeFault s.ifde.word s.ifde.pc) s) ∨
    (s.deHalted = false ∧ d.kind ≠ .invalid ∧
      decodeStage d s = { s with deex := deExOf d s, deHalted := s.feHalted }) := by
  unfold decodeStage
  split_ifs with h1 h2 h3 h4 h5
  · exact .inl rfl
  · exact .inl rfl
  · exact .inl rfl
  · simp only [Bool.or_eq_true, not_or, Bool.not_eq_true] at h1
    exact .inr (.inl ⟨h1.1, _, rfl⟩)
  · simp only [Bool.or_eq_true, not_or, Bool.not_eq_true] at h1
    exact .inr (.inl ⟨h1.1, _, rfl⟩)
  · simp only [Bool.or_eq_true, not_or, Bool.not_eq_true] at h1 h2 h4 h5
    have hready : IfdeReady s := ⟨by simpa using h3, h5, h4.1, h4.2⟩
    by_cases h6 : d.kind = .invalid
    · exact .inr (.inr (.inl ⟨h1.1, h2, hready, h6, issueDecoded_invalid h6 s⟩))
    · exact .inr (.inr (.inr ⟨h1.1, h6, issueDecoded_valid h6 h1.1⟩))

end Sys2Proof.Machine.FrontEnd
end

section
/-!
PROOF of O17: the halt cascade. Each stage keeps that a halted flag stands beside the halt instruction in the
register of its stage (`HaltChain`), and Fetch ends the control stall that Execute's repair begins.
-/

namespace Sys2Proof.Machine.FrontEnd

/-! ## The halt instruction in an inter-stage register -/

/-- `DEEX` holds the halt instruction as Decode fills it (43_fetch_decode.md R175). -/
def HaltInDeEx (d : DeEx) : Prop :=
  d.valid = true ∧ d.kind = .other ∧ d.layout = .none ∧ d.mem = MemCtl.zero ∧ d.wb = WbCtl.zero

/-- `EXMEM` holds the halt instruction (44_execute.md R203). -/
def HaltInExMem (e : ExMem) : Prop :=
  e.valid = true ∧ e.kind = .other ∧ e.mem = MemCtl.zero ∧ e.wb = WbCtl.zero

/-- `MEMWB` holds the halt instruction (45_memory_writeback.md R229). -/
def HaltInMemWb (m : MemWb) : Prop := m.valid = true ∧ m.kind = .other ∧ m.wb = WbCtl.zero

/-- The halt cascade without its clause on the control stall: what holds between the stages too. -/
structure HaltChain (s : State) : Prop where
  fe : s.feHalted = true → IfdeReady s ∧ refIsHalt s.ifde.word = true
  de : s.deHalted = true → s.feHalted = true ∧ HaltInDeEx s.deex
  ex : s.exHalted = true → s.deHalted = true ∧ s.dcacheStalled = false ∧ HaltInExMem s.exmem
  mem : s.memHalted = true → s.exHalted = true ∧ HaltInMemWb s.memwb
  stop : s.status = .halted → s.memHalted = true

theorem haltInv_iff {s : State} : HaltInv s ↔ s.controlStalled = false ∧ HaltChain s :=
  ⟨fun ⟨hcs, h1, h2, h3, h4, h5⟩ => ⟨hcs, h1, h2, h3, h4, h5⟩,
    fun ⟨hcs, h1, h2, h3, h4, h5⟩ => ⟨hcs, h1, h2, h3, h4, h5⟩⟩

/-- While Fetch has not halted no stage has. -/
theorem HaltChain.not_halted {s : State} (h : HaltChain s) :
    (s.feHalted = false → s.deHalted = false) ∧ (s.deHalted = false → s.exHalted = false) ∧
      (s.exHalted = false → s.memHalted = false) ∧ (s.memHalted = false → s.status ≠ .halted) := by
  refine ⟨fun hf => ?_, fun hf => ?_, fun hf => ?_, fun hf hs => ?_⟩
  · exact Bool.eq_false_iff.mpr fun hd => by simp [(h.de hd).1] at hf
  · exact Bool.eq_false_iff.mpr fun hd => by simp [(h.ex hd).1] at hf
  · exact Bool.eq_false_iff.mpr fun hd => by simp [(h.mem hd).1] at hf
  · simp [h.stop hs] at hf

/-- A procedure that writes nothing the chain speaks of, and at most raises a fault, keeps it. -/
theorem HaltChain.congr {s t : State} (h : HaltChain s) (hifde : t.ifde = s.ifde) (hdeex : t.deex = s.deex)
    (hexmem : t.exmem = s.exmem) (hmemwb : t.memwb = s.memwb) (hfe : t.feHalted = s.feHalted)
    (hde : t.deHalted = s.deHalted) (hex : t.exHalted = s.exHalted) (hmem : t.memHalted = s.memHalted)
    (hdc : t.dcacheStalled = s.dcacheStalled) (hs : t.status = .halted → s.status = .halted) :
    HaltChain t := by
  refine ⟨?_, ?_, ?_, ?_, fun ht => ?_⟩
  · rw [hfe, IfdeReady, hifde]; exact h.fe
  · rw [hde, hfe, hdeex]; exact h.de
  · rw [hex, hde, hdc, hexmem]; exact h.ex
  · rw [hmem, hex, hmemwb]; exact h.mem
  · rw [hmem]; exact h.stop (hs ht)

theorem HaltInExMem.passesThrough {e : ExMem} (h : HaltInExMem e) : passesThrough e = true := by
  obtain ⟨-, -, hmem, -⟩ := h
  simp [Machine.passesThrough, hmem, MemCtl.zero]

/-! ## Hazard unit and Writeback -/

theorem haltInDeEx_hazardUnit {s : State} (h : HaltInDeEx s.deex) : HaltInDeEx (hazardUnit s).deex := by
  unfold hazardUnit
  split_ifs
  · exact h
  · unfold patchedDeEx
    split_ifs <;> exact h

theorem HaltChain.hazardUnit {s : State} (h : HaltChain s) : HaltChain (hazardUnit s) := by
  refine ⟨?_, ?_, ?_, ?_, ?_⟩
  · simpa [IfdeReady] using h.fe
  · simpa using fun hd => ⟨(h.de hd).1, haltInDeEx_hazardUnit (h.de hd).2⟩
  · simpa using h.ex
  · simpa using h.mem
  · simpa using h.stop

/-- Writeback stops the machine only when the halt instruction is in `MEMWB` (45_memory_writeback.md
R234). -/
theorem writebackStage_halted {s : State} (h : (writebackStage s).status = .halted) :
    s.status = .halted ∨ s.memHalted = true := by
  have hstop : (writebackStop s).status = .halted → s.status = .halted ∨ s.memHalted = true := by
    unfold writebackStop
    split_ifs with hm
    · exact fun _ => .inr hm
    · exact .inl
  unfold writebackStage at h
  split_ifs at h
  · exact .inl h
  · exact hstop h
  · exact hstop (by simpa using h)

theorem HaltChain.writebackStage {s : State} (h : HaltChain s) : HaltChain (writebackStage s) := by
  refine ⟨?_, ?_, ?_, ?_, fun hs => ?_⟩
  · simpa [IfdeReady] using h.fe
  · simpa using h.de
  · simpa using h.ex
  · simpa using h.mem
  · simpa using (writebackStage_halted hs).elim h.stop id

/-! ## Memory -/

/-- Memory sets `MEM_halted` only after Execute has halted (45_memory_writeback.md R229). -/
theorem memoryStage_memHalted {p : Params} {s : State} (h : s.exHalted = false) :
    (memoryStage p s).memHalted = s.memHalted := by
  have hprop : ∀ u : State, u.exHalted = s.exHalted → (propagateMemHalt u).memHalted = u.memHalted :=
    fun u hu => by simp [propagateMemHalt, hu, h]
  unfold memoryStage
  split_ifs
  · rfl
  · rfl
  by_cases hp : passesThrough (restoreExMem s).exmem = true
  · rw [memoryMove, if_pos hp, hprop _ (by simp)]
    simp
  rw [Bool.not_eq_true] at hp
  have hx := dataAccess_exHalted p (restoreExMem s)
  have hm := dataAccess_memHalted p (restoreExMem s)
  rcases e : dataAccess p (restoreExMem s) with ⟨_ | k | ⟨d, i⟩, s1⟩ <;> rw [e] at hx hm
  · rw [memoryMove_raised hp e, hm]; simp
  · rw [memoryMove_waiting hp e, stallMemory_memHalted, hm]; simp
  · rw [memoryMove_done hp e]
    exact (hprop _ (by simpa using hx)).trans (by simpa using hm)

/-- Memory moves the halt instruction on with its flag; before Execute has halted it keeps the flags. -/
theorem HaltChain.memoryStage {p : Params} {s : State} (h : HaltChain s) : HaltChain (memoryStage p s) := by
  obtain ⟨-, -, hno3, hno4⟩ := h.not_halted
  cases hx : s.exHalted with
  | false =>
    have hm : (Machine.memoryStage p s).memHalted = false := (memoryStage_memHalted hx).trans (hno3 hx)
    refine ⟨?_, ?_, ?_, ?_, fun hs => ?_⟩
    · simpa [IfdeReady] using h.fe
    · simpa using h.de
    · simp [hx]
    · simp [hm]
    · exact absurd ((keepsOrFaults_memoryStage p s).halted hs) (hno4 (hno3 hx))
  | true =>
    cases hm : s.memHalted with
    | true => rwa [memoryStage_halted hm]
    | false =>
      obtain ⟨hde, hdc, hexmem⟩ := h.ex hx
      have hpass := hexmem.passesThrough
      obtain ⟨hvalid, hkind, -, hwb⟩ := hexmem
      rw [memoryStage_pass hm hdc hvalid hpass, propagateMemHalt, if_pos hx]
      exact ⟨h.fe, h.de, h.ex, fun _ => ⟨hx, rfl, hkind, hwb⟩, fun _ => rfl⟩

/-! ## Execute -/

/-- Execute sets `EX_halted` only when it moves the instruction of `DE_halted` to `EXMEM` (44_execute.md
R203). -/
theorem executeStage_exHalted {p : Params} {s : State} (hx : s.exHalted = false)
    (ht : (executeStage p s).exHalted = true) :
    s.deHalted = true ∧ s.dcacheStalled = false ∧ (executeStage p s).exmem = exMemOf s := by
  by_cases hlive : s.dcacheStalled = false ∧ s.deex.valid = true ∧ s.dataStalled = false ∧
      isBubble s.deex.kind = false
  · obtain ⟨hdc, hv, hd, hk⟩ := hlive
    rw [executeStage_live hx hdc hv hd hk] at ht ⊢
    refine ⟨?_, hdc, executeInstr_exmem p s⟩
    by_contra hde
    unfold executeInstr at ht
    split_ifs at ht <;> simp [propagateExHalt, hde, hx] at ht
  · unfold executeStage at ht
    split_ifs at ht <;> simp_all

theorem haltInExMem_exMemOf {s : State} (h : HaltInDeEx s.deex) : HaltInExMem (exMemOf s) := by
  obtain ⟨-, hkind, -, hmem, hwb⟩ := h
  simp [HaltInExMem, exMemOf, outgoingMem, hkind, hmem, hwb, MemCtl.zero]

/-- Execute passes the flag on with the halt instruction; a repair clears `FE_halted`, and then no stage has
halted, since the halt instruction is no branch. -/
theorem HaltChain.executeStage {p : Params} {s : State} (h : HaltChain s) :
    HaltChain (executeStage p s) := by
  cases hx : s.exHalted with
  | true => rwa [executeStage_skip (.inl hx)]
  | false =>
    obtain ⟨-, -, hno3, -⟩ := h.not_halted
    refine ⟨fun hf => ?_, fun hd => ?_, fun hxt => ?_, fun hm => ?_, fun hs => ?_⟩
    · rcases executeStage_fetchState p s with ⟨-, hifde, -, hfe, -⟩ | ⟨-, -, hfe, -⟩
      · rw [IfdeReady, hifde]
        exact h.fe (hfe.symm.trans hf)
      · rw [hfe] at hf; cases hf
    · rw [executeStage_deHalted] at hd
      obtain ⟨hfe, hdeex⟩ := h.de hd
      rcases executeStage_fetchState p s with ⟨-, -, -, hkeep, -⟩ | ⟨-, -, -, -, hcontrol⟩
      · exact ⟨hkeep.trans hfe, by simpa using hdeex⟩
      · obtain ⟨-, hkind, -⟩ := hdeex
        rw [hkind] at hcontrol; cases hcontrol
    · obtain ⟨hde, hdc, hexmem⟩ := executeStage_exHalted hx hxt
      refine ⟨by simpa using hde, by simpa using hdc, ?_⟩
      rw [hexmem]
      exact haltInExMem_exMemOf (h.de hde).2
    · rw [executeStage_memHalted, hno3 hx] at hm; cases hm
    · rw [executeStage_status] at hs
      simpa using h.stop hs

/-! ## Decode, Fetch and the ticks -/

/-- The record of a halt word is the one the halted flag travels with (R99, R293). -/
theorem haltInDeEx_deExOf {w : Word32} (h : refIsHalt w = true) (s : State) :
    HaltInDeEx (deExOf (refDecode w) s) := by
  rw [Encoding.refDecode_of_halt h]
  exact ⟨rfl, rfl, rfl, rfl, rfl⟩

theorem HaltChain.decodeStage {s : State} (h : HaltChain s) :
    HaltChain (decodeStage (refDecode s.ifde.word) s) := by
  obtain ⟨-, hno2, -, -⟩ := h.not_halted
  rcases decodeStage_cases (refDecode s.ifde.word) s with
    e | ⟨hde, x, e⟩ | ⟨-, -, -, -, e⟩ | ⟨hde, -, e⟩ <;> rw [e]
  · exact h
  · exact ⟨h.fe, fun hd => absurd (hde.symm.trans hd) nofun, h.ex, h.mem, h.stop⟩
  · exact h.congr rfl rfl rfl rfl rfl rfl rfl rfl rfl (fun hs => by cases hs)
  · have hx := hno2 hde
    exact ⟨h.fe, fun hf => ⟨hf, haltInDeEx_deExOf (h.fe hf).2 s⟩, fun hxt => absurd (hx.symm.trans hxt) nofun,
      h.mem, h.stop⟩

/-- Fetch sets `FE_halted` only with the halt word it delivers (R164). -/
theorem fetchStage_feHalted {s : State} (hf : s.feHalted = false)
    (ht : (fetchStage defaultParams refIsHalt s).feHalted = true) :
    IfdeReady (fetchStage defaultParams refIsHalt s) ∧
      refIsHalt (fetchStage defaultParams refIsHalt s).ifde.word = true := by
  have hread := cacheRead_feHalted defaultParams .ic s.pc 4 s
  unfold fetchStage fetchOpen at ht ⊢
  split_ifs at ht ⊢
  · rw [hf] at ht; cases ht
  · exact absurd (hf.symm.trans ht) nofun
  rcases e : cacheRead defaultParams .ic s.pc 4 s with ⟨_ | k | ⟨d, i⟩, s1⟩ <;>
    simp only [e] at hread ht ⊢
  · rw [hread, hf] at ht; cases ht
  · rw [markFetchStall_feHalted, hread, hf] at ht; cases ht
  · refine ⟨⟨rfl, rfl, rfl, rfl⟩, ?_⟩
    simpa [deliverWord, hread, hf] using ht

theorem HaltChain.fetchStage {s : State} (h : HaltChain s) :
    HaltChain (fetchStage defaultParams refIsHalt s) := by
  cases hf : s.feHalted with
  | true => rwa [fetchStage_gated (.inl hf)]
  | false =>
    obtain ⟨hno1, hno2, hno3, hno4⟩ := h.not_halted
    have hd := hno1 hf
    have hx := hno2 hd
    have hm := hno3 hx
    refine ⟨fetchStage_feHalted hf, ?_, ?_, ?_, fun hs => ?_⟩
    · simp [hd]
    · simp [hx]
    · simp [hm]
    · exact absurd ((keepsOrFaults_fetchStage _ _ s).halted hs) (hno4 hm)

theorem HaltChain.cycleEnd {s : State} (h : HaltChain s) : HaltChain (cycleEnd defaultParams s) :=
  h.congr (by simp) (by simp) (by simp) (by simp) (by simp) (by simp) (by simp) (by simp) (by simp)
    (keepsOrFaults_cycleEnd s).halted

theorem HaltChain.beforeDecode {s : State} (h : HaltChain s) : HaltChain (beforeDecode s) := by
  have hmem : HaltChain (afterMemory s) := h.hazardUnit.writebackStage.memoryStage
  rw [beforeDecode_eq]
  exact unlessFatal_preserves hmem fun _ => hmem.executeStage

theorem HaltChain.afterFetch {s : State} (h : HaltChain s) : HaltChain (afterFetch s) := by
  have hbefore : HaltChain (Machine.beforeDecode s) := h.beforeDecode
  have hword : (Machine.beforeDecode s).ifde.word = s.ifde.word := by rw [beforeDecode_ifde]
  have hdecode : HaltChain (afterDecode s) := by
    unfold afterDecode
    rw [← hword]
    exact unlessFatal_preserves hbefore fun _ => hbefore.decodeStage
  exact unlessFatal_preserves hdecode fun _ => hdecode.fetchStage

/-! ## The control stall (44_execute.md R200, 43_fetch_decode.md R157) -/

/-- A control stall that stands here is one that Fetch reaches in this cycle and ends. -/
def StallReachesFetch (s : State) : Prop :=
  s.controlStalled = true → isFatal s = false ∧ s.feHalted = false ∧ s.dcacheStalled = false ∧
    s.dataStalled = false ∧ s.ifde.flush = true

/-- A repair happens in an Execute that no stall gates, and clears `FE_halted`. -/
theorem stallReachesFetch_executeStage {p : Params} {s : State} (hs : isFatal s = false)
    (hcs : s.controlStalled = false) : StallReachesFetch (executeStage p s) := by
  intro hstall
  have hgates : s.exHalted = false ∧ s.dcacheStalled = false ∧ s.dataStalled = false := by
    unfold executeStage at hstall
    split_ifs at hstall <;> simp_all
  obtain ⟨-, hdc, hd⟩ := hgates
  rcases executeStage_fetchState p s with ⟨-, -, -, -, hkeep⟩ | ⟨hifde, -, hfe, -⟩
  · rw [hcs, or_self, hstall] at hkeep; cases hkeep
  · exact ⟨(isFatal_congr (executeStage_status p s)).trans hs, hfe, by simpa using hdc, by simpa using hd,
      by rw [hifde]⟩

theorem stallReachesFetch_beforeDecode {s : State} (hcs : s.controlStalled = false) :
    StallReachesFetch (beforeDecode s) := by
  have hmem : (afterMemory s).controlStalled = false := by simpa [afterMemory] using hcs
  rw [beforeDecode_eq]
  refine unlessFatal_preserves (fun h => ?_) fun hs => stallReachesFetch_executeStage hs hmem
  rw [hmem] at h; cases h

/-- Decode does not fault on the word that the repair flushes. -/
theorem StallReachesFetch.afterDecode {s : State} (h : StallReachesFetch (beforeDecode s)) :
    StallReachesFetch (afterDecode s) := by
  refine unlessFatal_preserves h fun _ hstall => ?_
  obtain ⟨hs, hfe, hdc, hd, hflush⟩ := h (by simpa using hstall)
  refine ⟨?_, by simpa using hfe, by simpa using hdc, by simpa using hd, by simpa using hflush⟩
  rcases decodeStage_cases (refDecode s.ifde.word) (beforeDecode s) with
    e | ⟨-, x, e⟩ | ⟨-, -, ⟨-, -, -, hno⟩, -⟩ | ⟨-, -, e⟩
  · rw [e]; exact hs
  · rw [e]; exact hs
  · rw [hno] at hflush; cases hflush
  · rw [e]; exact hs

/-- Fetch begins no control stall. -/
theorem fetchStage_no_stall {s : State} (h : s.controlStalled = false) :
    (fetchStage defaultParams refIsHalt s).controlStalled = false := by
  have hread := cacheRead_controlStalled defaultParams .ic s.pc 4 s
  unfold fetchStage fetchOpen
  split_ifs
  · exact h
  · rfl
  · split <;> (rename_i e; rw [e] at hread; simpa using hread.trans h)

theorem afterFetch_no_stall {s : State} (h : s.controlStalled = false) :
    (afterFetch s).controlStalled = false := by
  have hreach := (stallReachesFetch_beforeDecode h).afterDecode
  cases hcs : (afterDecode s).controlStalled with
  | false =>
    exact unlessFatal_preserves (P := fun u => u.controlStalled = false) hcs fun _ => fetchStage_no_stall hcs
  | true =>
    obtain ⟨hs, hfe, hdc, hd, -⟩ := hreach hcs
    rw [afterFetch, unlessFatal_ok hs, fetchStage_controlStalled hfe hdc hd hcs]

/-- Settles O17: every stage keeps the chain of halted flags, and the control stall of a repair ends in
Fetch of the same cycle. -/
theorem stepKeepsHaltCascade : Obligations.StepKeepsHaltCascade := by
  intro s t hinv hstep
  by_cases hr : s.status = .running
  · obtain ⟨hcs, hchain⟩ := haltInv_iff.mp hinv
    obtain rfl := Host.Outcome.next.inj ((step_eq_afterFetch hr).symm.trans hstep)
    refine haltInv_iff.mpr ⟨?_, unlessFatal_preserves hchain.afterFetch fun _ => hchain.afterFetch.cycleEnd⟩
    exact (unlessFatal_keeps State.controlStalled cycleEnd_controlStalled _).trans (afterFetch_no_stall hcs)
  · rw [next_eq_refDecode hstep, cycleWith_stopped hr]
    exact hinv

end Sys2Proof.Machine.FrontEnd
end

section
/-!
PROOFS of O40, O41 and O42: Decode taking a word, faulting on one, and squashing one, over whatever the other
stages hold.
-/

namespace Sys2Proof.Machine.FrontEnd

/-! ## Decode with nothing in the pipeline -/

/-- With nothing in the pipeline Decode takes a ready word, and the stages before it move bubbles only. -/
theorem decodeOpen_empty {s : State} (hr : IfdeReady s) (hp : PipeEmpty s) (hb : BackEndOpen s) :
    DecodeOpen s ∧ ∃ e m, beforeDecode s = { s with dataStalled := false, exmem := e, memwb := m } := by
  obtain ⟨e, m, -, -, hc⟩ := cycleToExecute_empty (p := defaultParams) hp hb
  have hbefore : beforeDecode s = { s with dataStalled := false, exmem := e, memwb := m } := hc
  obtain ⟨hs, hdc, hde, -, -⟩ := hb
  obtain ⟨-, -, -, hflush⟩ := id hr
  have hstall : (hazardUnit s).dataStalled = false := by rw [← beforeDecode_dataStalled, hbefore]
  have hfault : ¬MemoryFaults s := by
    rw [← beforeDecode_isFatal hs, hbefore, isFatal_running (by exact hs)]
    nofun
  refine ⟨⟨hs, hr, by rw [hbefore]; exact hflush, ?_⟩, e, m, hbefore⟩
  rintro (h | h | h | h)
  · exact absurd (hde.symm.trans h) nofun
  · rw [hbefore] at h
    exact absurd (hdc.symm.trans h) nofun
  · exact absurd (hstall.symm.trans h) nofun
  · exact hfault h

/-! ## Decode that takes the word (R172 to R175) -/

/-- Of a halted flag Decode passes on the one Fetch had at the start of the cycle: a repair, which clears it,
asks for a flush. -/
theorem decodeOpen_feHalted {s : State} (h : DecodeOpen s) : (beforeDecode s).feHalted = s.feHalted := by
  obtain ⟨-, -, hflush, -⟩ := h
  rcases beforeDecode_fetchState s with ⟨-, -, -, hfe⟩ | ⟨hifde, -, -⟩
  · exact hfe
  · rw [hifde] at hflush; cases hflush

theorem decodeOpen_deHalted {s : State} (h : DecodeOpen s) : s.deHalted = false := by
  obtain ⟨-, -, -, hgate⟩ := h
  exact Bool.eq_false_iff.mpr fun hde => hgate (.inl hde)

/-- What Decode leaves of a decoded instruction it takes. -/
theorem decode_issues {s : State} {d : Decoded} (h : DecodeOpen s) (hd : d.kind ≠ .invalid) :
    unlessFatal (decodeStage d) (beforeDecode s) =
      { beforeDecode s with deex := deExOf d (beforeDecode s), deHalted := s.feHalted } := by
  obtain ⟨hnf, -, hissue⟩ := decodeStage_open (d := d) h
  rw [unlessFatal_ok hnf, hissue, ← decodeOpen_feHalted h]
  exact issueDecoded_valid hd ((beforeDecode_deHalted s).trans (decodeOpen_deHalted h))

/-- A register after this cycle's Writeback, when an instruction retires into it. -/
theorem readReg_beforeDecode_retired {s : State} (h : Retires s) (hw : s.memwb.wb.regWrite = true)
    (hdst : s.memwb.dst ≠ zeroReg) : readReg (beforeDecode s) s.memwb.dst = memWbValue s.memwb := by
  obtain ⟨hv, hk⟩ := h
  rw [readReg_congr (beforeDecode_regs s),
    writebackStage_live (by simpa using hv) (by simpa using hk), readReg_retire]
  simp [hw, hdst]

/-- Settles O40: the record goes to `DEEX` as `deExOf` fills it, and the rest of the cycle writes neither
`DEEX` nor a register. -/
theorem decodeFillsDeEx : Obligations.DecodeFillsDeEx := by
  intro s i
  have hvalid := (recordOf_kind i).1
  have hexec := exec_eq_issue i s
  generalize recordOf i = d at hvalid hexec ⊢
  have hopen : DecodeOpen s →
      (cycleWith defaultParams refIsHalt d s).deex = deExOf d (beforeDecode s) ∧
      (cycleWith defaultParams refIsHalt d s).regs = (beforeDecode s).regs ∧
      (cycleWith defaultParams refIsHalt d s).deHalted = s.feHalted ∧ (beforeDecode s).ifde = s.ifde := by
    intro h
    obtain ⟨hs, -⟩ := id h
    obtain ⟨-, hifde, -⟩ := decodeStage_open (d := d) h
    rw [cycleWith_deex hs, cycleWith_regs hs, cycleWith_deHalted hs, decode_issues h hvalid]
    exact ⟨rfl, rfl, rfl, hifde⟩
  refine ⟨fun h => ⟨_, hexec, ?_⟩, fun hr hp hb => ?_⟩
  · obtain ⟨hdeex, hregs, hde, hifde⟩ := hopen h
    have hread := readReg_congr hregs
    rw [hdeex, hde, hread, hread]
    simp only [deExOf, hifde, true_and]
    intro hret hw hdst
    have hnew := readReg_beforeDecode_retired hret hw hdst
    exact ⟨fun ha => by rw [ha, hnew], fun hb => by rw [hb, hnew]⟩
  · obtain ⟨h, e, m, hbefore⟩ := decodeOpen_empty hr hp hb
    obtain ⟨hdeex, -⟩ := hopen h
    refine ⟨h, _, hexec, ?_⟩
    rw [hdeex, hbefore]
    exact ⟨rfl, rfl⟩

/-- Settles O41: Decode raises the fault on what Execute left, and a fatal state ends the cycle. -/
theorem undecodableWordFaults : Obligations.UndecodableWordFaults := by
  intro s e herr
  have hopen : DecodeOpen s → step s =
      .next { beforeDecode s with status := .fatal (.decodeFault s.ifde.word s.ifde.pc) } := by
    intro h
    obtain ⟨hs, -⟩ := id h
    obtain ⟨hnf, hifde, hissue⟩ := decodeStage_open (d := refDecode s.ifde.word) h
    have hfault : afterDecode s = raiseFatal (.decodeFault s.ifde.word s.ifde.pc) (beforeDecode s) := by
      rw [afterDecode, unlessFatal_ok hnf, hissue,
        issueDecoded_invalid (by rw [refDecode_error herr]; rfl), hifde]
    have hfatal : isFatal (raiseFatal (.decodeFault s.ifde.word s.ifde.pc) (beforeDecode s)) = true := rfl
    rw [step_eq_afterFetch hs, afterFetch, hfault, unlessFatal_fatal hfatal, unlessFatal_fatal hfatal]
    rfl
  refine ⟨hopen, fun hr hp hb => ?_⟩
  obtain ⟨h, x, m, hbefore⟩ := decodeOpen_empty hr hp hb
  refine ⟨_, hopen h, ?_⟩
  rw [hbefore]
  exact ⟨rfl, rfl, rfl, rfl, rfl, rfl, fun _ => rfl, ⟨rfl, rfl⟩, ⟨rfl, rfl, rfl⟩, rfl, rfl⟩

/-! ## Decode that takes no word (R167 to R170) -/

theorem beforeDecode_keepsOrFaults (s : State) :
    KeepsOrFaults (writebackStage (hazardUnit s)) (beforeDecode s) :=
  (keepsOrFaults_memoryStage ..).trans (.unlessFatal (.of_eq (executeStage_status ..)))

/-- In a cycle whose Decode writes nothing but a bubble into `DEEX`, no halted flag is passed on and no
`DECODE_FAULT` is raised. -/
theorem step_of_bubble {s t : State} {x : DeEx} (hr : s.status = .running) (hstep : step s = .next t)
    (hd : afterDecode s = { beforeDecode s with deex := x }) :
    t.deHalted = s.deHalted ∧ (∀ w pc, t.status ≠ .fatal (.decodeFault w pc)) ∧ t.deex = x := by
  have hcycle := next_eq_refDecode hstep
  refine ⟨?_, fun w pc ht => ?_, ?_⟩
  · rw [hcycle, cycleWith_deHalted hr]
    exact (congrArg State.deHalted hd).trans (beforeDecode_deHalted s)
  · obtain rfl := Host.Outcome.next.inj ((step_eq_afterFetch hr).symm.trans hstep)
    have hrest : KeepsOrFaults (afterDecode s) (unlessFatal (cycleEnd defaultParams) (afterFetch s)) :=
      (KeepsOrFaults.unlessFatal (keepsOrFaults_fetchStage ..)).trans (.unlessFatal (keepsOrFaults_cycleEnd _))
    have hdecode : KeepsOrFaults (beforeDecode s) (afterDecode s) := .of_eq (by rw [hd])
    have hfault := ((beforeDecode_keepsOrFaults s).trans (hdecode.trans hrest)).decodeFault ht
    exact absurd ((isFatal_iff _).mpr ⟨_, hfault⟩) (by rw [writebackStage_not_fatal hr]; nofun)
  · rw [hcycle, cycleWith_deex hr]
    exact congrArg State.deex hd

/-- A gated Decode leaves in `DEEX` what the hazard unit left there. -/
theorem afterDecode_gated {s : State} (hr : s.status = .running) (h : DecodeGated s) :
    afterDecode s = { beforeDecode s with deex := (hazardUnit s).deex } := by
  rw [afterDecode, decodeStage_notOpen hr h, ← beforeDecode_deex]

/-- The gates of Decode as it finds them, when none holds. -/
theorem beforeDecode_not_gated {s : State} (hr : s.status = .running) (h : ¬DecodeGated s) :
    isFatal (beforeDecode s) = false ∧ (beforeDecode s).deHalted = false ∧
      (beforeDecode s).dcacheStalled = false ∧ (beforeDecode s).dataStalled = false := by
  simp only [DecodeGated, not_or, Bool.not_eq_true] at h
  obtain ⟨hde, hdc, hd, hm⟩ := h
  exact ⟨by rwa [← Bool.not_eq_true, beforeDecode_isFatal hr], by simpa using hde, hdc, by simpa using hd⟩

/-- Decode gives a bubble for the word in `IFDE`, unless it is gated: what the cycle leaves. -/
theorem step_of_bubble_unless_gated {s t : State} {x : DeEx} (hr : s.status = .running)
    (hstep : step s = .next t) (hx : ¬DecodeGated s → afterDecode s = { beforeDecode s with deex := x }) :
    t.deHalted = s.deHalted ∧ (∀ w pc, t.status ≠ .fatal (.decodeFault w pc)) ∧
      (¬DecodeGated s → t.deex = x) ∧ (DecodeGated s → t.deex = (hazardUnit s).deex) := by
  by_cases hg : DecodeGated s
  · obtain ⟨hde, hfault, hdeex⟩ := step_of_bubble hr hstep (afterDecode_gated hr hg)
    exact ⟨hde, hfault, absurd hg, fun _ => hdeex⟩
  · obtain ⟨hde, hfault, hdeex⟩ := step_of_bubble hr hstep (hx hg)
    exact ⟨hde, hfault, fun _ => hdeex, fun h => absurd h hg⟩

/-- A squashed or flushed word becomes a `CONTROL_BUBBLE` (R169). -/
theorem afterDecode_squashed {s : State} (hr : s.status = .running) (hv : s.ifde.valid = true)
    (hsq : s.ifde.squash = true ∨ (beforeDecode s).ifde.flush = true) (hg : ¬DecodeGated s) :
    afterDecode s = { beforeDecode s with deex := bubbleDeEx .controlBubble s.ifde.pc } := by
  obtain ⟨hnf, hde, hdc, hd⟩ := beforeDecode_not_gated hr hg
  have hifde := beforeDecode_ifde s
  have hpc : (beforeDecode s).ifde.pc = s.ifde.pc := by rw [hifde]
  rw [afterDecode, unlessFatal_ok hnf, ← hpc]
  exact decodeStage_squash hde hdc hd (by rw [hifde]; exact hv) (by rw [hifde]; exact hsq)

/-- A flush request outlasts the stages before Decode. -/
theorem beforeDecode_flush {s : State} (h : s.ifde.flush = true) : (beforeDecode s).ifde.flush = true := by
  rcases beforeDecode_fetchState s with ⟨-, hifde, -⟩ | ⟨hifde, -⟩ <;> rw [hifde]
  exact h

/-- Settles O42: what Decode finds is a squash or a flush, whoever asked for it. -/
theorem squashedWordNotDecoded : Obligations.SquashedWordNotDecoded := by
  intro s t hr hv hreq hstep
  have hsq : s.ifde.squash = true ∨ (beforeDecode s).ifde.flush = true := by
    rcases hreq with h | h | h
    · exact .inl h
    · exact .inr (beforeDecode_flush h)
    · exact .inr h
  obtain ⟨hde, hfault, hdeex⟩ := step_of_bubble_unless_gated hr hstep (afterDecode_squashed hr hv hsq)
  exact ⟨hfault, hde, hdeex⟩

end Sys2Proof.Machine.FrontEnd
end

section
/-!
PROOFS of O43 and O60: Fetch with the word in the instruction cache, and Fetch waiting for a miss.
-/

namespace Sys2Proof.Machine.FrontEnd

/-! ## What an open Fetch works on (R156 to R158) -/

/-- The state `v` in which Fetch of the cycle from `s` runs: none of its gates holds, and what it reads is
what the cycle started with, or what Execute left. -/
structure AtFetch (s v : State) : Prop where
  running : isFatal v = false
  feHalted : v.feHalted = false
  dcacheStalled : v.dcacheStalled = false
  dataStalled : v.dataStalled = false
  controlStalled : v.controlStalled = false
  pc : v.pc = s.pc
  ic : v.ic = s.ic
  pred : v.pred = (beforeDecode s).pred
  ts : v.ts = (beforeDecode s).ts

/-- Decode raises no fault before an open Fetch. -/
theorem fetchOpen_decode_not_fatal {s : State} (h : FetchOpen s) : isFatal (afterDecode s) = false := by
  obtain ⟨hr, -, hdc, hd, hcs, hm, hword⟩ := h
  obtain ⟨-, hifde, -⟩ := beforeDecode_open hcs
  have hnf : isFatal (beforeDecode s) = false := by rwa [← Bool.not_eq_true, beforeDecode_isFatal hr]
  rw [afterDecode, unlessFatal_ok hnf]
  rcases decodeStage_cases (refDecode s.ifde.word) (beforeDecode s) with
    e | ⟨-, x, e⟩ | ⟨hde, -, hready, hinv, -⟩ | ⟨-, -, e⟩
  · rw [e]; exact hnf
  · rw [e]; exact hnf
  · rw [IfdeReady, hifde] at hready
    obtain ⟨-, -, -, hflush⟩ := id hready
    have hgate : ¬DecodeGated s := by
      rintro (h | h | h | h)
      · rw [← beforeDecode_deHalted, hde] at h; cases h
      · rw [hdc] at h; cases h
      · rw [hd] at h; cases h
      · exact hm h
    obtain ⟨i, hi⟩ := hword ⟨hr, hready, by rw [hifde]; exact hflush, hgate⟩
    rw [refDecode_ok hi] at hinv
    exact absurd hinv (recordOf_kind i).1
  · rw [e]; exact hnf

theorem atFetch {s : State} (h : FetchOpen s) : AtFetch s (afterDecode s) := by
  have hnf := fetchOpen_decode_not_fatal h
  obtain ⟨hr, hfe, hdc, hd, hcs, hm, -⟩ := h
  obtain ⟨hpc, -, hic, hkeep⟩ := beforeDecode_open hcs
  have hbefore : isFatal (beforeDecode s) = false := by rwa [← Bool.not_eq_true, beforeDecode_isFatal hr]
  have hdecode : afterDecode s = decodeStage (refDecode s.ifde.word) (beforeDecode s) := unlessFatal_ok hbefore _
  refine ⟨hnf, ?_, ?_, ?_, ?_, ?_, ?_, ?_, ?_⟩ <;> rw [hdecode]
  · simpa using hkeep.trans hfe
  · simpa using hdc
  · simpa using hd
  · simpa using hcs
  · simpa using hpc
  · simpa using hic
  · simp
  · simp

/-! ## The word of a line (20_memory.md R62, R63) -/

/-- A part of a run of bytes is a run of bytes. -/
theorem memBytes_drop_take (m : Memory) (a : Word) {off n k : Nat} (h : off + n ≤ k) :
    ((memBytes m a k).drop off).take n = memBytes m (a + BitVec.ofNat 64 off) n := by
  refine Backing.eq_memBytes ?_ fun j hj => ?_
  · simp only [List.length_take, List.length_drop, Backing.memBytes_length]
    omega
  · rw [List.getElem?_take_of_lt hj, List.getElem?_drop, Backing.memBytes_getElem? m a (by omega),
      BitVec.add_assoc, ← BitVec.ofNat_add]

/-- Four bytes as a number are the word they make, the first the least significant. -/
theorem bytesValue_memBytes_four (m : Memory) (a : Word) :
    bytesValue (memBytes m a 4) = (memWordRead m a).toNat := by
  have h0 := (memRead m a).isLt
  have h1 := (memRead m (a + 1)).isLt
  have h2 := (memRead m (a + 2)).isLt
  have hlist : memBytes m a 4 = [memRead m a, memRead m (a + 1), memRead m (a + 2), memRead m (a + 3)] := by
    simp [memBytes, List.range_succ]
  rw [hlist, memWordRead, BitVec.toNat_append, ← Nat.shiftLeft_add_eq_or_of_lt h0, BitVec.toNat_append,
    ← Nat.shiftLeft_add_eq_or_of_lt h1, BitVec.toNat_append, ← Nat.shiftLeft_add_eq_or_of_lt h2]
  simp only [bytesValue, Nat.shiftLeft_eq]
  omega

/-- The word Fetch takes from a line that holds what backing memory holds is memory's word (20_memory.md
R63). -/
theorem lineData_eq_memWordRead {l : Line} {m : Memory} {a : Word} (ha : a.toNat % 4 = 0)
    (ht : l.tag = blockNumber defaultParams a)
    (hl : l.bytes = memBytes m (tagBase defaultParams l.tag) defaultParams.block) :
    (lineData l (blockOffset defaultParams a) 4).setWidth 32 = memWordRead m a := by
  have hin := Backing.crossesBlock_eq_false.mp (Backing.aligned_word_in_block ha)
  have haddr : tagBase defaultParams l.tag + BitVec.ofNat 64 (blockOffset defaultParams a) = a := by
    apply BitVec.eq_of_toNat_eq
    have hlt := a.isLt
    simp only [ht, tagBase, blockNumber, blockOffset, Backing.defaultParams_block, BitVec.toNat_add,
      BitVec.toNat_ofNat]
    omega
  apply BitVec.eq_of_toNat_eq
  rw [lineData, hl, memBytes_drop_take m _ hin, haddr, bytesValue_memBytes_four]
  have hlt := (memWordRead m a).isLt
  simp only [BitVec.toNat_setWidth, BitVec.toNat_ofNat]
  omega

/-! ## Nothing in the pipeline -/

/-- With nothing in the pipeline a cycle up to Decode retires nothing and trains nothing. -/
theorem beforeDecode_empty_flags {s : State} (h : PipeEmpty s) :
    (beforeDecode s).z = s.z ∧ (beforeDecode s).n = s.n ∧ (beforeDecode s).pred = s.pred := by
  obtain ⟨hd, -, hw⟩ := h
  have hwb : (writebackStage (hazardUnit s)).z = s.z ∧ (writebackStage (hazardUnit s)).n = s.n := by
    unfold writebackStage
    split_ifs with hv hk
    · simp
    · simp
    · exact absurd (hw (by simpa using hv)) (by simpa using hk)
  refine ⟨?_, ?_, ?_⟩
  · rw [beforeDecode_eq, unlessFatal_keeps State.z (executeStage_z _)]
    simpa [afterMemory] using hwb.1
  · rw [beforeDecode_eq, unlessFatal_keeps State.n (executeStage_n _)]
    simpa [afterMemory] using hwb.2
  · rcases Prediction.beforeDecode_pred_cases s with hkeep | ⟨-, hv, hk, -⟩
    · exact hkeep
    · have hb := hd hv
      rw [hk] at hb; cases hb

/-! ## The hit path (R161 to R164) -/

/-- Fetch that hits delivers the word of the line and touches it. -/
theorem afterFetch_hit {s : State} {j : Nat} {l : Line} (h : FetchOpen s) (hq : s.ic.queries = [])
    (hpc : s.pc.toNat % 4 = 0) (hl : cacheLookup defaultParams .ic s.pc s = some (j, l)) :
    afterFetch s = deliverWord refIsHalt ((lineData l (blockOffset defaultParams s.pc) 4).setWidth 32)
      (touchLine .ic j l (afterDecode s)) := by
  have v := atFetch h
  have hread : cacheRead defaultParams .ic (afterDecode s).pc 4 (afterDecode s) =
      (.done (lineData l (blockOffset defaultParams s.pc) 4) j, touchLine .ic j l (afterDecode s)) := by
    rw [v.pc]
    refine cacheRead_hit (Backing.aligned_word_in_block hpc) ?_ ?_
    · simp [pendingQuery, v.ic, hq]
    · rw [cacheLookup_congr (s := s) (by simp [v.ic]), hl]
  rw [afterFetch, unlessFatal_ok v.running,
    fetchStage_hit v.feHalted v.dcacheStalled v.dataStalled v.controlStalled hread]

/-- Settles O43: the cycle ends with the state Fetch delivered, which the ticks leave to it. -/
theorem fetchDelivers : Obligations.FetchDelivers := by
  intro s j l h hq hpc hl
  have v := atFetch h
  have hfetch := afterFetch_hit h hq hpc hl
  obtain ⟨-, -, htag⟩ := cacheLookup_some hl
  obtain ⟨hr, -⟩ := h
  refine ⟨_, _, step_eq_afterFetch hr, rfl, lineData_eq_memWordRead hpc htag, ?_⟩
  generalize (lineData l (blockOffset defaultParams s.pc) 4).setWidth 32 = w at hfetch ⊢
  have hnf : isFatal (afterFetch s) = false := by
    rw [hfetch]
    exact (isFatal_congr (by simp)).trans v.running
  rw [unlessFatal_ok hnf]
  have hicq : (afterFetch s).ic.queries = [] := by rw [hfetch]; simp [touchLine, setLine, v.ic, hq]
  have hic : (cycleEnd defaultParams (afterFetch s)).ic = (afterFetch s).ic := by
    rw [cycleEnd_ic, cacheTick_idle (c := .ic) hicq]
  have hdz : (afterDecode s).z = (beforeDecode s).z := unlessFatal_keeps State.z (by simp) _
  have hdn : (afterDecode s).n = (beforeDecode s).n := unlessFatal_keeps State.n (by simp) _
  rw [cycleEnd_z, cycleEnd_n, cycleEnd_pred, cycleEnd_ifde, cycleEnd_pc, cycleEnd_feHalted, hic]
  refine ⟨?_, ?_, ?_, hicq, fun i => ?_, fun hp => ?_⟩
  · rw [hfetch]; simp [deliverWord, v.pc]
  · rw [hfetch]; simp [deliverWord, v.pc]
  · rw [hfetch]; simp [deliverWord, v.feHalted]
  · rw [hfetch]
    simp [touchLine, setLine, v.ic, v.ts, tableGet_put]
  · obtain ⟨hez, hen, hep⟩ := beforeDecode_empty_flags hp
    rw [hfetch]
    simp [hdz, hdn, v.pred, hez, hen, hep]

/-! ## The miss path (R160) -/

/-- After a fill for a block that was in no line the lookup finds the filled line (40_cache.md R119). -/
theorem cacheLookup_cacheFill {c : CacheId} {a b : Word} {s : State} (hw : 0 < waysOf defaultParams c)
    (hb : blockNumber defaultParams b = blockNumber defaultParams a)
    (hnone : cacheLookup defaultParams c a s = none) :
    ∃ j, cacheLookup defaultParams c a (cacheFill defaultParams c b s) =
      some (j,
        { tag := blockNumber defaultParams b, stamp := s.ts + 1, bytes := fillBytes defaultParams b s.mem }) := by
  have hindex : ∀ w, lineIndex defaultParams c b w = lineIndex defaultParams c a w := fun w => by
    simp only [lineIndex, setIndex, hb]
  have hvictim := tableGet_cacheFill defaultParams c b s
  have hother : ∀ i, i ≠ lineIndex defaultParams c a (victimWay defaultParams c b s) →
      tableGet (getCache c (cacheFill defaultParams c b s)).lines i = tableGet (getCache c s).lines i := by
    intro i hi
    rw [← hindex] at hi
    cases c <;> exact tableGet_put_other _ hi _
  rw [hindex] at hvictim
  cases hfound : cacheLookup defaultParams c a (cacheFill defaultParams c b s) with
  | none => exact absurd hb (cacheLookup_none.mp hfound _ (victimWay_lt _ c b s hw) _ hvictim)
  | some r =>
    obtain ⟨i, l⟩ := r
    obtain ⟨⟨w, hlt, rfl⟩, hget, htag⟩ := cacheLookup_some hfound
    by_cases hv : lineIndex defaultParams c a w = lineIndex defaultParams c a (victimWay defaultParams c b s)
    · rw [hv, hvictim] at hget
      exact ⟨_, by rw [← Option.some.inj hget]⟩
    · rw [hother _ hv] at hget
      exact absurd htag (cacheLookup_none.mp hnone w hlt l hget)

theorem blockNumber_blockBase (a : Word) :
    blockNumber defaultParams (blockBase defaultParams a) = blockNumber defaultParams a := by
  have hlt := a.isLt
  simp only [blockNumber, blockBase, Backing.defaultParams_block, BitVec.toNat_ofNat]
  omega

/-- Fetch finds no word: a query is open after it, with `k` cycles to go, and nothing else it reads has
changed. -/
theorem afterFetch_miss {s : State} {k : Nat} (h : FetchOpen s)
    (hx : crossesBlock defaultParams s.pc 4 = false)
    (hmiss : (s.ic.queries = [] ∧ cacheLookup defaultParams .ic s.pc s = none ∧ k = missLatency) ∨
      (s.ic.queries = [{ base := blockBase defaultParams s.pc, rem := k }] ∧ 0 < k)) :
    afterFetch s = markFetchStall
      (setQueries .ic [{ base := blockBase defaultParams s.pc, rem := k }] (afterDecode s)) := by
  have v := atFetch h
  have hread : ∃ r, cacheRead defaultParams .ic (afterDecode s).pc 4 (afterDecode s) = (.waiting r,
      setQueries .ic [{ base := blockBase defaultParams s.pc, rem := k }] (afterDecode s)) := by
    rw [v.pc]
    rcases hmiss with ⟨hq, hl, rfl⟩ | ⟨hq, -⟩
    · refine ⟨missLatency, (cacheRead_miss hx ?_ ?_).trans ?_⟩
      · simp [pendingQuery, v.ic, hq]
      · rw [cacheLookup_congr (s := s) (by simp [v.ic]), hl]
      · simp [v.ic, hq]
    · refine ⟨k, (cacheRead_pending (q := ⟨blockBase defaultParams s.pc, k⟩) hx ?_).trans ?_⟩
      · simp [pendingQuery, v.ic, hq]
      · rw [← hq, ← v.ic, ← getCache_ic, setQueries_self]
  obtain ⟨r, hread⟩ := hread
  rw [afterFetch, unlessFatal_ok v.running,
    fetchStage_miss v.feHalted v.dcacheStalled v.dataStalled v.controlStalled hread]

/-- A word that Fetch waits for becomes a `MEM_BUBBLE` (R170). -/
theorem afterDecode_waiting {s : State} (hr : s.status = .running) (hv : s.ifde.valid = true)
    (hms : s.ifde.memStall = true) (hsq : s.ifde.squash = false) (hfl : (beforeDecode s).ifde.flush = false)
    (hg : ¬DecodeGated s) :
    afterDecode s = { beforeDecode s with deex := bubbleDeEx .memBubble s.ifde.pc } := by
  obtain ⟨hnf, hde, hdc, hd⟩ := beforeDecode_not_gated hr hg
  have hifde := beforeDecode_ifde s
  have hpc : (beforeDecode s).ifde.pc = s.ifde.pc := by rw [hifde]
  rw [afterDecode, unlessFatal_ok hnf, ← hpc]
  exact decodeStage_memStall hde hdc hd (by rw [hifde]; exact hv) (by rw [hifde]; exact hsq) hfl
    (by rw [hifde]; exact hms)

/-- Settles O60: Fetch leaves the query with `k` cycles to go, and the tick counts it down or fills. -/
theorem fetchMissStalls : Obligations.FetchMissStalls := by
  refine ⟨fun s k h hx hmiss => ?_, fun s t hr hv hms hsq hfl hstep =>
    step_of_bubble_unless_gated hr hstep (afterDecode_waiting hr hv hms hsq hfl)⟩
  have v := atFetch h
  have hfetch := afterFetch_miss h hx hmiss
  have hk : 0 < k := by
    rcases hmiss with ⟨-, -, rfl⟩ | ⟨-, hk⟩
    · decide
    · exact hk
  obtain ⟨hr, -⟩ := h
  have hnf : isFatal (afterFetch s) = false := by
    rw [hfetch]
    exact (isFatal_congr (by simp)).trans v.running
  refine ⟨_, step_eq_afterFetch hr, ?_⟩
  rw [unlessFatal_ok hnf]
  have hq : (getCache .ic (afterFetch s)).queries = [{ base := blockBase defaultParams s.pc, rem := k }] := by
    rw [hfetch]; rfl
  have hlines : (afterFetch s).ic.lines = s.ic.lines := by rw [hfetch, ← v.ic]; rfl
  rw [cycleEnd_pred, cycleEnd_ifde, cycleEnd_pc, cycleEnd_feHalted, cycleEnd_mem, cycleEnd_ic]
  refine ⟨?_, ?_, ?_, ?_, ?_, ?_, ?_, ?_, fun hlt => ?_, ?_⟩
  iterate 4 (· rw [hfetch]; rfl)
  · rw [hfetch]; exact v.pc
  · rw [hfetch]; exact v.pc
  · rw [hfetch]; exact v.feHalted
  · rw [hfetch]; exact v.pred
  · obtain ⟨r, rfl⟩ : ∃ r, k = r + 2 := ⟨k - 2, by omega⟩
    rw [cacheTick_one hq]
    exact ⟨hlines, rfl⟩
  · rintro rfl
    rw [cacheTick_last hq]
    refine ⟨rfl, fun hnone => ?_⟩
    have hnone' : cacheLookup defaultParams .ic s.pc (afterFetch s) = none :=
      (cacheLookup_congr (by simp [hlines])).trans hnone
    obtain ⟨j, hj⟩ := cacheLookup_cacheFill (by decide) (blockNumber_blockBase s.pc) hnone'
    refine ⟨j, _, (cacheLookup_congr ?_).trans hj, Backing.fillBytes_eq_memBytes _ rfl _ _⟩
    rw [getCache_ic, cycleEnd_ic, cacheTick_last hq]
    rfl

end Sys2Proof.Machine.FrontEnd
end

section
/-!
PROOF of O53: the nine ALU operations (44_execute.md R184 to R192), each as exact arithmetic or bit by bit.
-/

namespace Sys2Proof.Machine.Execution

/-- Subtraction modulo `2^64` is that of the integers (R185). -/
theorem toNat_sub_eq_emod (a b : Word) : ((a - b).toNat : Int) = ((a.toNat : Int) - b.toNat) % 2 ^ 64 := by
  have ha := a.isLt
  have hb := b.isLt
  rw [BitVec.toNat_sub]
  omega

/-- Settles O53, operation by operation; `CMP` is `SUB` by definition. -/
theorem aluResults : Obligations.AluResults := by
  intro a b
  refine ⟨?add, ?sub, ?and, ?or, ?xor, ?shl, ?shr, ?mul, rfl⟩
  case add => exact BitVec.toNat_add a b
  case sub => exact toNat_sub_eq_emod a b
  case and => exact fun i => BitVec.getLsbD_and
  case or => exact fun i => BitVec.getLsbD_or
  case xor => exact fun i => BitVec.getLsbD_xor
  case shl => rw [alu, BitVec.toNat_shiftLeft, Nat.shiftLeft_eq]
  case shr => rw [alu, BitVec.toNat_ushiftRight, Nat.shiftRight_eq_div_pow]
  case mul => exact BitVec.toNat_mul a b

end Sys2Proof.Machine.Execution
end

section
/-!
PROOFS of O47 and O48: the cycle in which Execute resolves a branch, with nothing older in the pipeline. What
Execute leaves is said once for each outcome of the prediction (44_execute.md R199, R200); the rest of the cycle
follows from what Decode and Fetch do with it.
-/

namespace Sys2Proof.Machine.Execution

/-! ## Resolution (44_execute.md R195 to R201) -/

/-- The predictor after the update with the branch in `DEEX` (R201). -/
def trainedPred (s : State) : Predictor :=
  predUpdate (updatesHistory s.deex.ex.brKind) (branchTaken s) s.deex.pc (branchTarget s.deex) s.pred

theorem trainedPred_trained (s : State) :
    PredictorTrained s.pred (trainedPred s) (decide (s.deex.ex.brKind ≠ .uncond)) (branchTaken s) s.deex.pc
      (s.deex.pc + 4 * s.deex.offset) := by
  rw [← Prediction.updatesHistory_eq]
  exact Prediction.predictorUpdate ..

/-- A correct prediction clears the control stall and trains the predictor (R199). -/
theorem resolveBranch_predicted {p : Params} {s : State} (h : actualNext s = s.deex.predNext) :
    resolveBranch p s = { s with controlStalled := false, pred := trainedPred s } := by
  simp only [resolveBranch, checkPrediction, if_pos h, trainedPred]

/-- A misprediction repairs, and trains the predictor too (R200). -/
theorem resolveBranch_mispredicted {p : Params} {s : State} (h : actualNext s ≠ s.deex.predNext) :
    resolveBranch p s = { repair p (actualNext s) s with pred := trainedPred s } := by
  simp only [resolveBranch, checkPrediction, if_neg h, trainedPred, repair_pred]

/-- Whatever fetch miss is outstanding is for the block of `PC`. -/
def OnlyOwnFetch (s : State) : Prop :=
  s.ic.queries.length ≤ 1 ∧ ∀ q ∈ s.ic.queries, s.ifde.valid = true ∧ s.ifde.memStall = true ∧
    q.base = blockBase defaultParams s.pc

theorem onlyOwnFetch_of_queries {s : State} (h : NoQueries s ∨ (OneQueryInv s ∧ s.dc.queries = [])) :
    OnlyOwnFetch s ∧ s.dc.queries = [] := by
  rcases h with ⟨hic, hdc⟩ | ⟨⟨hlen, -, hown, -⟩, hdc⟩
  · simp [OnlyOwnFetch, hic, hdc]
  · exact ⟨⟨hlen, hown⟩, hdc⟩

/-- The cancellation leaves no fetch miss outstanding (R200, 40_cache.md R121). -/
theorem cancelWrongFetch_onlyOwnFetch {s : State} (h : OnlyOwnFetch s) :
    cancelWrongFetch defaultParams s = setQueries .ic [] s := by
  obtain ⟨hlen, hown⟩ := h
  unfold cancelWrongFetch cacheCancel
  match hq : s.ic.queries with
  | [] =>
    have hself : setQueries .ic [] s = s := by rw [← hq, ← getCache_ic, setQueries_self]
    simp [hself]
  | [q] =>
    obtain ⟨hv, hms, hbase⟩ := hown q (by simp [hq])
    simp [hv, hms, hbase]
  | _ :: _ :: _ => simp [hq] at hlen

/-- Execution of a branch, with no halted flag to pass on (R202 to R204). -/
theorem executeStage_branch {p : Params} {s : State} (hx : s.exHalted = false) (hc : s.dcacheStalled = false)
    (hv : s.deex.valid = true) (hd : s.dataStalled = false) (hk : s.deex.kind = .control)
    (hde : s.deHalted = false) : executeStage p s = { resolveBranch p s with exmem := exMemOf s } := by
  have hlive : isBubble s.deex.kind = false := by rw [hk]; rfl
  rw [executeStage_live hx hc hv hd hlive, executeInstr, if_pos hk, propagateExHalt, if_neg (by simp [hde])]

theorem exMemOf_condMet {s : State} (hk : s.deex.kind = .control) :
    (exMemOf s).mem.condMet = branchTaken s := by
  simp [exMemOf, outgoingMem, hk]

/-! ## Up to Execute -/

/-- The branch in `DEEX` moved on to `EXMEM`, with the predictor trained and `m` in `MEMWB`: what the stages up
to Execute do in either outcome. -/
def branchExecuted (m : MemWb) (s : State) : State :=
  { s with dataStalled := false, memwb := m, exmem := exMemOf s, pred := trainedPred s }

/-- The same after a repair that leaves no fetch miss outstanding (R200). -/
def branchRepaired (m : MemWb) (s : State) : State :=
  { branchExecuted m s with
    pc := actualNext s, ifde := { s.ifde with flush := true }, controlStalled := true, feHalted := false
    ic := { s.ic with queries := [] } }

/-- A branch stands in `DEEX`, Execute is open, and nothing older is in the pipeline. -/
structure BranchAlone (s : State) : Prop where
  backEnd : BackEndOpen s
  exmem : SlotIdle s.exmem.valid s.exmem.kind
  memwb : SlotIdle s.memwb.valid s.memwb.kind
  valid : s.deex.valid = true
  control : s.deex.kind = .control

/-- With nothing older in the pipeline Execute resolves the branch as the cycle finds it. -/
theorem BranchAlone.beforeDecode_eq {s : State} (h : BranchAlone s) : ∃ m, beforeDecode s =
    { resolveBranch defaultParams { s with dataStalled := false, memwb := m } with exmem := exMemOf s } := by
  obtain ⟨hr, hdc, hde, hex, hmem⟩ := h.backEnd
  obtain ⟨m, -, hhazard, hwb, hmemory⟩ :=
    cycleToMemory_idle (p := defaultParams) h.exmem h.memwb hdc hex hmem
  exact ⟨m, cycleToExecute_of hhazard hwb hmemory (isFatal_running hr)
    (executeStage_branch hex hdc h.valid rfl h.control hde)⟩

theorem BranchAlone.beforeDecode_predicted {s : State} (h : BranchAlone s)
    (hp : actualNext s = s.deex.predNext) :
    ∃ m, beforeDecode s = { branchExecuted m s with controlStalled := false } := by
  obtain ⟨m, he⟩ := h.beforeDecode_eq
  rw [resolveBranch_predicted (by exact hp)] at he
  exact ⟨m, he⟩

theorem BranchAlone.beforeDecode_mispredicted {s : State} (h : BranchAlone s)
    (hp : actualNext s ≠ s.deex.predNext) (hq : OnlyOwnFetch s) :
    ∃ m, beforeDecode s = branchRepaired m s := by
  obtain ⟨m, he⟩ := h.beforeDecode_eq
  rw [resolveBranch_mispredicted (by exact hp), repair, cancelWrongFetch_onlyOwnFetch (by exact hq)] at he
  exact ⟨m, he⟩

/-- Nothing gates the Decode behind such a branch. -/
theorem BranchAlone.not_decodeGated {s : State} (h : BranchAlone s) : ¬DecodeGated s := by
  obtain ⟨m, he⟩ := h.beforeDecode_eq
  obtain ⟨hr, hdc, hde, -⟩ := h.backEnd
  rintro (hg | hg | hg | hg)
  · exact absurd (hde.symm.trans hg) nofun
  · simp [he, hdc] at hg
  · rw [← beforeDecode_dataStalled] at hg
    simp [he] at hg
  · rw [← beforeDecode_isFatal hr, isFatal_running (by simp [he, hr])] at hg
    cases hg

/-! ## The rest of the cycle -/

/-- The word behind a mispredicted branch becomes a bubble, Fetch marks it and ends the control stall, and no
miss is left to count down (43_fetch_decode.md R157, R169). -/
theorem BranchAlone.step_mispredicted {s : State} (h : BranchAlone s) (hv : s.ifde.valid = true)
    (hp : actualNext s ≠ s.deex.predNext) (hq : OnlyOwnFetch s) (hdq : s.dc.queries = []) :
    ∃ m, step s = .next
      { branchRepaired m s with
        ifde := { s.ifde with flush := true, squash := true }, controlStalled := false
        deex := bubbleDeEx .controlBubble s.ifde.pc, cycleCount := s.cycleCount + 1 } := by
  obtain ⟨m, hbefore⟩ := h.beforeDecode_mispredicted hp hq
  obtain ⟨hr, hdc, -⟩ := h.backEnd
  have hdecode := FrontEnd.afterDecode_squashed hr hv (.inr (by rw [hbefore]; rfl)) h.not_decodeGated
  rw [hbefore] at hdecode
  have hnf : isFatal (FrontEnd.afterDecode s) = false := by rw [hdecode]; exact isFatal_running hr
  have hfetch : FrontEnd.afterFetch s =
      { branchRepaired m s with
        ifde := { s.ifde with flush := true, squash := true }, controlStalled := false
        deex := bubbleDeEx .controlBubble s.ifde.pc } := by
    rw [FrontEnd.afterFetch, unlessFatal_ok hnf, hdecode]
    exact fetchStage_controlStalled rfl hdc rfl rfl
  refine ⟨m, ?_⟩
  rw [FrontEnd.step_eq_afterFetch hr, hfetch, unlessFatal_ok (isFatal_running (by exact hr)),
    cycleEnd_idle (isFatal_running (by exact hr)) rfl (by exact hdq)]
  rfl

/-- Settles O47: the state the repairing cycle ends in is known field by field. -/
theorem mispredictionRepair : Obligations.MispredictionRepair := by
  intro s hb hx hw hq hv hdv hk hp
  obtain ⟨hown, hdq⟩ := onlyOwnFetch_of_queries hq
  have h : BranchAlone s := ⟨hb, hx, hw, hdv, hk⟩
  obtain ⟨m, hstep⟩ := h.step_mispredicted hv hp hown hdq
  obtain ⟨hr, -, hde, -⟩ := hb
  exact ⟨_, hstep, hr, rfl, rfl, rfl, rfl, rfl, rfl, rfl, hde, hk, exMemOf_condMet hk, rfl, trainedPred_trained s,
    fun _ => rfl, ⟨rfl, rfl⟩, ⟨rfl, rfl, rfl⟩⟩

/-- A field that Decode, Fetch and the ticks keep is at the end of the cycle as Execute left it. -/
theorem cycleWith_eq_beforeDecode {α : Type} (g : State → α) {d : Decoded} {s : State} (h : s.status = .running)
    (hc : ∀ s n, g { s with cycleCount := n } = g s := by intros; rfl)
    (ht : ∀ c s, g (cacheTick defaultParams c s) = g s := by simp)
    (hf : ∀ s, g (fetchStage defaultParams refIsHalt s) = g s := by simp)
    (hd : ∀ s, g (decodeStage d s) = g s := by simp) :
    g (cycleWith defaultParams refIsHalt d s) = g (beforeDecode s) :=
  (cycleWith_keeps g hc ht hf h).trans (unlessFatal_keeps g hd _)

/-- Settles O48: Decode takes the word as `IFDE` holds it, and the rest of the cycle keeps what it and Execute
wrote. -/
theorem correctPrediction : Obligations.CorrectPrediction := by
  intro s i hb hx hw hready hi hdv hk hp
  have h : BranchAlone s := ⟨hb, hx, hw, hdv, hk⟩
  obtain ⟨m, hbefore⟩ := h.beforeDecode_predicted hp
  obtain ⟨hr, -⟩ := hb
  obtain ⟨-, -, -, hflush⟩ := id hready
  have hopen : DecodeOpen s := ⟨hr, hready, by rw [hbefore]; exact hflush, h.not_decodeGated⟩
  have hstep := FrontEnd.step_eq_refDecode s
  rw [FrontEnd.refDecode_ok hi] at hstep
  have hdeex := cycleWith_deex (d := recordOf i) hr
  rw [FrontEnd.decode_issues hopen (recordOf_kind i).1] at hdeex
  have hexmem := cycleWith_eq_beforeDecode State.exmem (d := recordOf i) hr
  have hregs := cycleWith_eq_beforeDecode State.regs (d := recordOf i) hr
  have hz := cycleWith_eq_beforeDecode State.z (d := recordOf i) hr
  have hn := cycleWith_eq_beforeDecode State.n (d := recordOf i) hr
  have hpred := Prediction.cycleWith_pred (d := recordOf i) hr
  rw [hbefore] at hdeex hexmem hregs hz hn hpred
  refine ⟨_, hstep, ?_⟩
  rw [hdeex, hexmem, hpred]
  exact ⟨rfl, rfl, rfl, hk, rfl, exMemOf_condMet hk, trainedPred_trained s, readReg_congr hregs, hz, hn⟩

end Sys2Proof.Machine.Execution
end

section
/-!
PROOFS of O8 to O10: the step is the driver's list of procedures around the instruction in `IFDE`
(46_driver.md R246, R249).
-/

namespace Sys2Proof.Encoding

/-- A table row's bits and its word have the same bytes. -/
theorem tableBytes_tableWord (w : Nat) : tableBytes 32 (tableWord 32 w).toNat = tableBytes 32 w := by
  simp [tableBytes, tableWord]

/-- The converse of `decodeTableWord_toNat`: the bytes of a table row hold its word (R90). -/
theorem decodeWord_tableWord {w : Nat} {i : Instr} (h : decodeTableWord 32 w = some i) :
    decodeWord (tableWord 32 w) = .ok i := by
  rw [decodeTableWord, ← tableBytes_tableWord, tableBytes_toNat, decodeBytes, wordOfBytes_extract] at h
  cases hw : decodeWord (tableWord 32 w) with
  | ok j => rw [hw] at h; cases h; rfl
  | error e => rw [hw] at h; cases h

end Sys2Proof.Encoding

namespace Sys2Proof.Machine.Driver

/-! ## The word in `IFDE` -/

theorem step_eq_exec {s : State} {i : Instr} (h : decodeWord s.ifde.word = .ok i) : step s = exec i s := by
  rw [step, h]

@[simp] theorem withFetchWord_word (s : State) (nbits w : Nat) :
    (s.withFetchWord nbits w).ifde.word = tableWord nbits w := rfl

@[simp] theorem withFetchWord_mem (s : State) (nbits w : Nat) :
    (s.withFetchWord nbits w).mem = memWordWrite s.mem s.pc (tableWord nbits w) := rfl

/-- Settles O8: the word that `withFetchWord` delivers is the one it writes to memory, and the one the bytes of
the table row decode to. -/
theorem stepRunsDecoded : Obligations.StepRunsDecoded := by
  refine ⟨fun s i h => step_eq_exec h, fun s w i h => ⟨step_eq_exec ?_, ?_, rfl, rfl⟩⟩
  · exact Encoding.decodeWord_tableWord h
  · rw [withFetchWord_mem, withFetchWord_word, memWordRead_memWordWrite]

/-! ## The order of the procedures (46_driver.md R246) -/

/-- `cycleEnd` guards its last two steps itself; under `unlessFatal` its first tick is guarded as well (R249). -/
theorem unlessFatal_cycleEnd (p : Params) (s : State) :
    unlessFatal (cycleEnd p) s =
      unlessFatal (fun u => { u with cycleCount := u.cycleCount + 1 })
        (unlessFatal (cacheTick p .dc) (unlessFatal (cacheTick p .ic) s)) := by
  cases h : isFatal s with
  | true => simp only [unlessFatal_fatal h]
  | false => rw [unlessFatal_ok h, unlessFatal_ok h, cycleEnd]

/-- No procedure before Decode writes the word in `IFDE`, so Decode may read it when it runs. -/
theorem afterDecode_eq (s : State) :
    FrontEnd.afterDecode s = unlessFatal (fun u => decodeStage (refDecode u.ifde.word) u) (beforeDecode s) := by
  have hword : (beforeDecode s).ifde.word = s.ifde.word := by rw [beforeDecode_ifde]
  simp only [FrontEnd.afterDecode, unlessFatal, hword]

/-- Settles O9: the cycle of a running machine, with Decode's word and the ticks put as R246 lists them. -/
theorem stepIsStagesInOrder : Obligations.StepIsStagesInOrder := by
  intro s
  split_ifs with hr
  · rw [FrontEnd.step_eq_afterFetch hr, unlessFatal_cycleEnd, FrontEnd.afterFetch, afterDecode_eq]
    rfl
  · rw [FrontEnd.step_eq_refDecode, cycleWith_stopped hr]

/-! ## A stopped machine (46_driver.md R249) -/

theorem issueCycle_stopped {d : Decoded} {s : State} (h : s.status ≠ .running) : issueCycle d s = .next s := by
  rw [issueCycle, cycleWith_stopped h]

/-- Settles O10: `step` and every `exec` is the issue of one record, and a stopped machine issues none. -/
theorem stoppedMachineStays : Obligations.StoppedMachineStays := by
  intro s h
  constructor
  · rw [FrontEnd.step_eq_refDecode, cycleWith_stopped h]
  · intro i
    rw [exec_eq_issue, issueCycle_stopped h]

end Sys2Proof.Machine.Driver
end

section
/-!
PROOFS of O19: every pending query has cycles left when it is ticked, so that `NEG_COUNTDOWN` is not raised, and a
query is opened only for a block that has none, so that `DUP_QUERY` is not (60_exceptions.md R303).
-/

namespace Sys2Proof.Machine.Exceptions

/-! ## Pending queries have cycles left (10_state.md R44, R45) -/

/-- No query of the list has reached 0. -/
def CyclesLeft (qs : List Query) : Prop := ∀ q ∈ qs, 1 ≤ q.rem

theorem cyclesLeft_of_queriesInv {p : Params} {c : CacheId} {s : State} (h : QueriesInv p c s) :
    CyclesLeft (getCache c s).queries := by
  obtain ⟨-, hqueries⟩ := h
  intro q hq
  obtain ⟨-, hrem, -⟩ := hqueries q hq
  exact hrem

/-- A new query starts at `MISS_LATENCY` (40_cache.md R113). -/
theorem CyclesLeft.opens {qs : List Query} (h : CyclesLeft qs) (b : Word) :
    CyclesLeft (qs ++ [{ base := b, rem := missLatency }]) := by
  intro q hq
  rw [List.mem_append, List.mem_singleton] at hq
  rcases hq with hq | rfl
  · exact h q hq
  · exact Nat.le_add_left 1 9

/-- Cancellation only takes a query away (40_cache.md R121). -/
theorem CyclesLeft.cacheCancel {p : Params} {a : Word} {s : State} (h : CyclesLeft s.ic.queries) :
    CyclesLeft (cacheCancel p .ic a s).ic.queries :=
  fun q hq => h q (List.mem_of_mem_eraseP hq)

/-- Whatever Memory does, it counts no query down. -/
theorem CyclesLeft.dataEffect {e : ExMem} {dc dc' : Cache} {m m' : Memory}
    (h : CyclesLeft dc.queries) (heff : Backing.DataEffect e dc m dc' m') : CyclesLeft dc'.queries := by
  cases heff with
  | keeps hd _ => rwa [hd]
  | opens _ _ hq => rw [hq]; exact h.opens _
  | touches _ _ _ _ _ _ hq => rwa [hq]
  | stores _ _ _ _ _ _ _ _ _ _ _ hq => rwa [hq]

/-- Of the queries of the instruction cache Execute can only cancel one (44_execute.md R200). -/
theorem CyclesLeft.executeStage {p : Params} {s : State} (h : CyclesLeft s.ic.queries) :
    CyclesLeft (executeStage p s).ic.queries := by
  have hcancel : CyclesLeft (cancelWrongFetch p s).ic.queries := by
    unfold cancelWrongFetch
    split_ifs
    · exact h.cacheCancel
    · exact h
  unfold Machine.executeStage
  split_ifs
  · exact h
  · exact h
  · exact h
  · exact h
  · unfold executeInstr
    rw [propagateExHalt_ic]
    split_ifs
    · unfold resolveBranch checkPrediction
      split_ifs
      · exact h
      · exact hcancel
    · exact h

/-- Fetch changes the queries of the instruction cache by a new one at most (43_fetch_decode.md R158, R160). -/
theorem CyclesLeft.fetchStage {s : State} (h : CyclesLeft s.ic.queries) :
    CyclesLeft (fetchStage defaultParams refIsHalt s).ic.queries := by
  unfold Machine.fetchStage fetchOpen
  split_ifs
  · exact h
  · exact h
  rcases cacheRead_cases defaultParams .ic s.pc 4 s with
    ⟨-, e⟩ | ⟨-, q, -, e⟩ | ⟨-, -, i, l, -, e⟩ | ⟨-, -, -, e⟩ <;> rw [e]
  · exact h
  · exact h
  · exact h
  · exact h.opens _

theorem cyclesLeft_beforeDecode {s : State} (hi : CyclesLeft s.ic.queries) (hd : CyclesLeft s.dc.queries) :
    CyclesLeft (beforeDecode s).ic.queries ∧ CyclesLeft (beforeDecode s).dc.queries := by
  have hai : CyclesLeft (afterMemory s).ic.queries := by simpa [afterMemory] using hi
  have had : CyclesLeft (afterMemory s).dc.queries := by
    rcases Backing.afterMemory_effect s with ⟨hkeep, -⟩ | ⟨-, heff⟩
    · rwa [hkeep]
    · exact hd.dataEffect heff
  rw [beforeDecode_eq]
  exact FrontEnd.unlessFatal_preserves (P := fun u => CyclesLeft u.ic.queries ∧ CyclesLeft u.dc.queries)
    ⟨hai, had⟩ fun _ => ⟨hai.executeStage, by rwa [executeStage_dc]⟩

/-- Both caches reach their ticks with cycles left. -/
theorem cyclesLeft_afterFetch {s : State} (hi : CyclesLeft s.ic.queries) (hd : CyclesLeft s.dc.queries) :
    CyclesLeft (FrontEnd.afterFetch s).ic.queries ∧ CyclesLeft (FrontEnd.afterFetch s).dc.queries := by
  obtain ⟨hbi, hbd⟩ := cyclesLeft_beforeDecode hi hd
  have hdi : CyclesLeft (FrontEnd.afterDecode s).ic.queries := by
    rwa [FrontEnd.afterDecode, unlessFatal_keeps State.ic (by simp)]
  have hdd : CyclesLeft (FrontEnd.afterDecode s).dc.queries := by
    rwa [FrontEnd.afterDecode, unlessFatal_keeps State.dc (by simp)]
  exact FrontEnd.unlessFatal_preserves (P := fun u => CyclesLeft u.ic.queries ∧ CyclesLeft u.dc.queries)
    ⟨hdi, hdd⟩ fun _ => ⟨hdi.fetchStage, by rwa [fetchStage_dc]⟩

/-! ## The faults of a cycle (60_exceptions.md R301 to R303) -/

/-- The faults that no program can cause (R303). -/
def internalFault : FatalInfo → Bool
  | .negCountdown _ | .dupQuery _ | .badCacheHandle => true
  | .decodeFault _ _ | .blockCross _ => false

/-- No internal fault has been raised. -/
def NoInternal (s : State) : Prop := ∀ i, s.status = .fatal i → internalFault i = false

theorem noInternal_congr {s t : State} (h : t.status = s.status) (hs : NoInternal s) : NoInternal t := by
  rwa [NoInternal, h]

theorem noInternal_of_not_fatal {s : State} (h : isFatal s = false) : NoInternal s := by
  intro i hi
  rw [(isFatal_iff s).mpr ⟨i, hi⟩] at h
  cases h

theorem noInternal_raiseFatal {i : FatalInfo} (hi : internalFault i = false) (s : State) :
    NoInternal (raiseFatal i s) := by
  intro j hj
  rwa [← Status.fatal.inj hj]

/-- `Read` opens a query only where none is pending, so the fault it can raise is `BLOCK_CROSS`
(40_cache.md R112 to R115). -/
theorem noInternal_cacheRead (p : Params) (c : CacheId) (a : Word) (n : Nat) {s : State} (h : NoInternal s) :
    NoInternal (cacheRead p c a n s).2 := by
  rcases cacheRead_cases p c a n s with ⟨-, e⟩ | ⟨-, q, -, e⟩ | ⟨-, -, i, l, -, e⟩ | ⟨-, -, -, e⟩ <;> rw [e]
  · exact noInternal_raiseFatal rfl s
  · exact h
  · exact noInternal_congr (by simp) h
  · exact noInternal_congr (by simp) h

/-- Up to Execute the only fault is Memory's `BLOCK_CROSS` (45_memory_writeback.md R224, R225). -/
theorem noInternal_beforeDecode {s : State} (hr : s.status = .running) : NoInternal (beforeDecode s) := by
  by_cases hm : MemoryFaults s
  · have hf : isFatal (afterMemory s) = true := (afterMemory_isFatal hr).mpr hm
    rw [beforeDecode_eq, unlessFatal_fatal hf, Backing.afterMemory_faults hm]
    exact noInternal_raiseFatal rfl _
  · rw [← beforeDecode_isFatal hr, Bool.not_eq_true] at hm
    exact noInternal_of_not_fatal hm

/-- Decode raises `DECODE_FAULT` only (43_fetch_decode.md R172). -/
theorem noInternal_decodeStage (d : Decoded) {s : State} (h : NoInternal s) : NoInternal (decodeStage d s) := by
  rcases FrontEnd.decodeStage_cases d s with e | ⟨-, x, e⟩ | ⟨-, -, -, -, e⟩ | ⟨-, -, e⟩ <;> rw [e]
  · exact h
  · exact noInternal_congr rfl h
  · exact noInternal_raiseFatal rfl s
  · exact noInternal_congr rfl h

/-- Fetch raises what its `Read` raises (43_fetch_decode.md R158). -/
theorem noInternal_fetchStage {s : State} (h : NoInternal s) :
    NoInternal (fetchStage defaultParams refIsHalt s) := by
  have hread := noInternal_cacheRead defaultParams .ic s.pc 4 h
  unfold fetchStage fetchOpen
  split_ifs
  · exact h
  · exact noInternal_congr rfl h
  split <;> (rename_i e; rw [e] at hread)
  · exact hread
  · exact noInternal_congr rfl hread
  · exact noInternal_congr rfl hread

theorem noInternal_afterFetch {s : State} (hr : s.status = .running) : NoInternal (FrontEnd.afterFetch s) := by
  have hdecode : NoInternal (FrontEnd.afterDecode s) :=
    FrontEnd.unlessFatal_preserves (noInternal_beforeDecode hr)
      fun _ => noInternal_decodeStage _ (noInternal_beforeDecode hr)
  exact FrontEnd.unlessFatal_preserves hdecode fun _ => noInternal_fetchStage hdecode

/-! ## The ticks (40_cache.md R118) -/

/-- A tick that finds no query at 0 raises nothing. -/
theorem tickQueries_status {p : Params} {c : CacheId} {qs : List Query} (h : CyclesLeft qs) (kept : List Query)
    (s : State) : (tickQueries p c kept qs s).status = s.status := by
  induction qs generalizing kept s with
  | nil => simp [tickQueries]
  | cons q rest ih =>
    have hq : q.rem ≠ 0 := Nat.one_le_iff_ne_zero.mp (h q List.mem_cons_self)
    have hrest : CyclesLeft rest := fun q' hq' => h q' (List.mem_cons_of_mem _ hq')
    rw [tickQueries, if_neg hq]
    split_ifs
    · rw [ih hrest, cacheFill_status]
    · exact ih hrest _ _

/-- The tick of the instruction cache leaves the queries of the data cache to their own tick, so neither
raises a fault. -/
theorem cycleEnd_status {s : State} (hi : CyclesLeft s.ic.queries) (hd : CyclesLeft s.dc.queries) :
    (cycleEnd defaultParams s).status = s.status := by
  have hic : (cacheTick defaultParams .ic s).status = s.status := tickQueries_status hi [] s
  have hdc : (unlessFatal (cacheTick defaultParams .dc) (cacheTick defaultParams .ic s)).status = s.status :=
    FrontEnd.unlessFatal_preserves (P := fun u => u.status = s.status) hic
      fun _ => (tickQueries_status (by simpa using hd) [] _).trans hic
  exact FrontEnd.unlessFatal_preserves (P := fun u => u.status = s.status) hdc fun _ => hdc

/-- Settles O19: no procedure before the ticks raises an internal fault or counts a query down, and the ticks find
cycles left in every query. -/
theorem noInternalFault : Obligations.NoInternalFault := by
  rintro s t ⟨-, -, hiq, hdq, -⟩ hr hstep
  obtain ⟨hi, hd⟩ := cyclesLeft_afterFetch (cyclesLeft_of_queriesInv hiq) (cyclesLeft_of_queriesInv hdq)
  have hfetch := noInternal_afterFetch hr
  have hnone : NoInternal (unlessFatal (cycleEnd defaultParams) (FrontEnd.afterFetch s)) :=
    FrontEnd.unlessFatal_preserves hfetch fun _ => noInternal_congr (cycleEnd_status hi hd) hfetch
  rw [FrontEnd.step_eq_afterFetch hr] at hstep
  obtain rfl := Host.Outcome.next.inj hstep
  refine ⟨fun b ht => ?_, fun b ht => ?_, fun ht => ?_⟩ <;> exact absurd (hnone _ ht) nofun

end Sys2Proof.Machine.Exceptions
end

section
/-!
PROOF of O13. An invariant that every procedure of the cycle keeps is kept by the step, faults or not
(46_driver.md R246, R249); the alignment of the addresses is one (10_state.md R22).
-/

namespace Sys2Proof.Machine.Invariant

/-- What each procedure of `StepCycle` keeps, the step keeps: a fault only leaves procedures out. -/
theorem step_preserves {P : State → Prop} (hazard : ∀ s, P s → P (hazardUnit s))
    (writeback : ∀ s, P s → P (writebackStage s)) (memory : ∀ s, P s → P (memoryStage defaultParams s))
    (execute : ∀ s, P s → P (executeStage defaultParams s)) (decode : ∀ d s, P s → P (decodeStage d s))
    (fetch : ∀ s, P s → P (fetchStage defaultParams refIsHalt s))
    (tick : ∀ c s, P s → P (cacheTick defaultParams c s)) (count : ∀ s n, P s → P { s with cycleCount := n })
    {s t : State} (h : P s) (hstep : step s = .next t) : P t := by
  by_cases hr : s.status = .running
  · obtain rfl := Host.Outcome.next.inj ((FrontEnd.step_eq_afterFetch hr).symm.trans hstep)
    have guarded : ∀ {f : State → State} {u : State}, (∀ u, P u → P (f u)) → P u → P (unlessFatal f u) :=
      fun hf hu => FrontEnd.unlessFatal_preserves hu fun _ => hf _ hu
    have hbefore : P (beforeDecode s) := guarded execute (memory _ (writeback _ (hazard _ h)))
    have hfetch : P (FrontEnd.afterFetch s) := guarded fetch (guarded (decode _) hbefore)
    exact guarded (fun u hu => guarded (fun v hv => count v _ hv) (guarded (tick .dc) (tick .ic u hu))) hfetch
  · rwa [FrontEnd.next_eq_refDecode hstep, cycleWith_stopped hr]

/-! ## Addresses (10_state.md R22) -/

theorem fallThrough_aligned {a : Word} (h : a.toNat % 4 = 0) : (fallThrough a).toNat % 4 = 0 := by
  unfold fallThrough
  bv_omega

theorem branchTarget_aligned {d : DeEx} (h : d.pc.toNat % 4 = 0) : (branchTarget d).toNat % 4 = 0 := by
  unfold branchTarget
  bv_omega

theorem actualNext_aligned {s : State} (h : s.deex.pc.toNat % 4 = 0) : (actualNext s).toNat % 4 = 0 := by
  unfold actualNext
  split
  · exact branchTarget_aligned h
  · exact fallThrough_aligned h

/-- A prediction is the target of an entry or the next address in order (41_predictor.md R130). -/
theorem predict_aligned {b : Predictor} {pc : Word} (hpc : pc.toNat % 4 = 0)
    (hb : ∀ i e, tableGet b.btb i = some e → e.target.toNat % 4 = 0) : (predict b pc).2.toNat % 4 = 0 := by
  unfold predict
  split
  · exact fallThrough_aligned hpc
  · rename_i e he
    split_ifs
    · exact fallThrough_aligned hpc
    · exact hb _ e he
    · exact hb _ e he
    · exact fallThrough_aligned hpc

theorem pcInv_congr {s t : State} (h : PcInv s) (hpc : t.pc = s.pc) (hifde : t.ifde = s.ifde)
    (hdeex : t.deex = s.deex) (hpred : t.pred = s.pred) : PcInv t := by
  rwa [PcInv, hpc, hifde, hdeex, hpred]

theorem pcInv_hazardUnit {s : State} (h : PcInv s) : PcInv (hazardUnit s) := by
  obtain ⟨hpc, hifde, hdeex, hbtb⟩ := h
  obtain ⟨hvalid, -, haddr, -⟩ := Prediction.hazardUnit_deex_control s
  exact ⟨by simpa using hpc, by simpa using hifde, by rwa [hvalid, haddr], by simpa using hbtb⟩

/-- Everything Execute can do to the state Fetch works on: nothing, or the repair after a mispredicted branch
(44_execute.md R199 to R201). -/
theorem executeStage_keeps_or_repairs (p : Params) (s : State) :
    ((executeStage p s).pc = s.pc ∧ (executeStage p s).ifde = s.ifde ∧ (executeStage p s).ic = s.ic) ∨
    (s.deex.valid = true ∧ s.deex.kind = .control ∧ executeStage p s = propagateExHalt
      { repair p (actualNext s) s with pred := Execution.trainedPred s, exmem := exMemOf s }) := by
  unfold executeStage
  split_ifs with hgate hvalid
  · exact .inl ⟨rfl, rfl, rfl⟩
  · exact .inl ⟨rfl, rfl, rfl⟩
  · exact .inl ⟨rfl, rfl, rfl⟩
  · exact .inl ⟨rfl, rfl, rfl⟩
  · unfold executeInstr
    by_cases hk : s.deex.kind = .control
    · by_cases hpred : actualNext s = s.deex.predNext
      · left
        simp [hk, Execution.resolveBranch_predicted hpred]
      · right
        refine ⟨by simpa using hvalid, hk, ?_⟩
        simp only [if_pos hk, Execution.resolveBranch_mispredicted hpred]
    · left
      simp [hk]

theorem pcInv_executeStage {p : Params} {s : State} (h : PcInv s) : PcInv (executeStage p s) := by
  obtain ⟨hpc, hifde, hdeex, hbtb⟩ := h
  refine ⟨?_, ?_, by simpa using hdeex, ?_⟩
  · rcases executeStage_keeps_or_repairs p s with ⟨e, -⟩ | ⟨hv, -, e⟩
    · rwa [e]
    · rw [e, propagateExHalt_pc]
      exact actualNext_aligned (hdeex hv)
  · rcases executeStage_fetchState p s with ⟨-, e, -⟩ | ⟨e, -⟩ <;> rw [e] <;> exact hifde
  · rcases Prediction.executeStage_pred_cases p s with e | ⟨-, hv, -, e⟩ <;> rw [e]
    · exact hbtb
    · intro i e he
      rw [Prediction.predUpdate_btb] at he
      split at he
      · rw [← Option.some.inj he]
        exact branchTarget_aligned (hdeex hv)
      · exact hbtb i e he

/-- Whatever Decode puts into `DEEX` has the address of `IFDE` (43_fetch_decode.md R169 to R174). -/
theorem decodeStage_deex_pc (d : Decoded) (s : State) :
    (decodeStage d s).deex = s.deex ∨ (s.ifde.valid = true ∧ (decodeStage d s).deex.pc = s.ifde.pc) := by
  unfold decodeStage
  split_ifs with _ _ hvalid
  · exact .inl rfl
  · exact .inl rfl
  · exact .inl rfl
  · exact .inr ⟨by simpa using hvalid, rfl⟩
  · exact .inr ⟨by simpa using hvalid, rfl⟩
  · unfold issueDecoded
    split
    · exact .inl rfl
    · exact .inr ⟨by simpa using hvalid, by rw [propagateDeHalt_deex]; rfl⟩

theorem pcInv_decodeStage (d : Decoded) {s : State} (h : PcInv s) : PcInv (decodeStage d s) := by
  obtain ⟨hpc, hifde, hdeex, hbtb⟩ := h
  refine ⟨by simpa using hpc, by simpa using hifde, fun hv => ?_, by simpa using hbtb⟩
  rcases decodeStage_deex_pc d s with e | ⟨hvalid, e⟩
  · rw [e] at hv ⊢
    exact hdeex hv
  · rw [e]
    exact hifde hvalid

/-- Fetch fills `IFDE` with the address in `PC`, and moves `PC` on to the prediction (R160 to R164). -/
theorem pcInv_fetchStage {s : State} (h : PcInv s) : PcInv (fetchStage defaultParams refIsHalt s) := by
  obtain ⟨hpc, hifde, hdeex, hbtb⟩ := h
  unfold fetchStage fetchOpen
  split_ifs
  · exact ⟨hpc, hifde, hdeex, hbtb⟩
  · exact ⟨hpc, hifde, hdeex, hbtb⟩
  · have hread : PcInv (cacheRead defaultParams .ic s.pc 4 s).2 :=
      pcInv_congr ⟨hpc, hifde, hdeex, hbtb⟩ (by simp) (by simp) (by simp) (by simp)
    rcases e : cacheRead defaultParams .ic s.pc 4 s with ⟨_ | k | ⟨d, i⟩, s1⟩ <;> rw [e] at hread
    · exact hread
    · obtain ⟨hpc1, -, hdeex1, hbtb1⟩ := hread
      exact ⟨hpc1, fun _ => hpc1, hdeex1, hbtb1⟩
    · obtain ⟨hpc1, -, hdeex1, hbtb1⟩ := hread
      exact ⟨predict_aligned hpc1 hbtb1, fun _ => hpc1, hdeex1, hbtb1⟩

/-- Settles O13: only Execute, Decode and Fetch write the addresses, and each keeps them aligned. -/
theorem stepKeepsPcAligned : Obligations.StepKeepsPcAligned := by
  intro s t h hstep
  refine step_preserves (P := PcInv) ?_ ?_ ?_ ?_ ?_ ?_ ?_ ?_ h hstep
  · exact fun _ => pcInv_hazardUnit
  · exact fun _ h => pcInv_congr h (by simp) (by simp) (by simp) (by simp)
  · exact fun _ h => pcInv_congr h (by simp) (by simp) (by simp) (by simp)
  · exact fun _ => pcInv_executeStage
  · exact fun d _ => pcInv_decodeStage d
  · exact fun _ => pcInv_fetchStage
  · exact fun c _ h => pcInv_congr h (by simp) (by simp) (by simp) (by simp)
  · exact fun _ _ h => h

end Sys2Proof.Machine.Invariant
end

section
/-!
PROOF of O16. Fetch has at most the query it waits for, and Memory at most that of the access it is stalled on
(10_state.md R45, 45_memory_writeback.md R231).
-/

namespace Sys2Proof.Machine.Invariant

/-! ## The data access, case by case (45_memory_writeback.md R224, R225) -/

/-- The state a data access that hits leaves: the line is touched, and a store goes through to backing memory. -/
def hitState (p : Params) (i : Nat) (l : Line) (s : State) : State :=
  if s.exmem.mem.memRead then touchLine .dc i l s
  else storeLine p .dc i { l with stamp := s.ts + 1 } (blockOffset p s.exmem.aluResult)
    (widthBytes s.exmem.mem.width) (storeValue s.exmem) (touchLine .dc i l s)

/-- The access leaves its block, finds its query pending, hits, or opens its query (40_cache.md R112 to R116). -/
theorem dataAccess_cases (p : Params) (s : State) :
    (crossesBlock p s.exmem.aluResult (widthBytes s.exmem.mem.width) = true ∧
      dataAccess p s = (.raised, raiseFatal (.blockCross s.exmem.aluResult) s)) ∨
    (∃ q, pendingQuery p .dc s.exmem.aluResult s = some q ∧ dataAccess p s = (.waiting q.rem, s)) ∨
    (crossesBlock p s.exmem.aluResult (widthBytes s.exmem.mem.width) = false ∧
      pendingQuery p .dc s.exmem.aluResult s = none ∧
      ∃ i l, cacheLookup p .dc s.exmem.aluResult s = some (i, l) ∧
        dataAccess p s = (.done (lineData l (blockOffset p s.exmem.aluResult) (widthBytes s.exmem.mem.width)) i,
          hitState p i l s)) ∨
    (pendingQuery p .dc s.exmem.aluResult s = none ∧ cacheLookup p .dc s.exmem.aluResult s = none ∧
      dataAccess p s = (.waiting missLatency,
        setQueries .dc (s.dc.queries ++ [{ base := blockBase p s.exmem.aluResult, rem := missLatency }]) s)) := by
  rcases cacheRead_cases p .dc s.exmem.aluResult (widthBytes s.exmem.mem.width) s with
    ⟨hx, e⟩ | ⟨-, q, hq, e⟩ | ⟨hx, hq, i, l, hl, e⟩ | ⟨-, hq, hl, e⟩
  · exact .inl ⟨hx, (Backing.dataAccess_not_done (by simp [e])).trans e⟩
  · exact .inr (.inl ⟨q, hq, (Backing.dataAccess_not_done (by simp [e])).trans e⟩)
  · refine .inr (.inr (.inl ⟨hx, hq, i, l, hl, ?_⟩))
    unfold dataAccess hitState
    split
    · exact e
    · exact cacheWrite_hit hx hq hl
  · exact .inr (.inr (.inr ⟨hq, hl, (Backing.dataAccess_not_done (by simp [e])).trans e⟩))

/-- A hit leaves the queries alone. -/
@[simp] theorem hitState_dc_queries (p : Params) (i : Nat) (l : Line) (s : State) :
    (hitState p i l s).dc.queries = s.dc.queries := by
  unfold hitState
  split <;> rfl

/-! ## The queries a tick leaves (40_cache.md R118) -/

/-- A tick counts queries down and takes some away; it opens none. -/
theorem tickQueries_bases (p : Params) (c : CacheId) (kept qs : List Query) (s : State) :
    ((getCache c (tickQueries p c kept qs s)).queries.map Query.base).Sublist ((kept ++ qs).map Query.base) := by
  induction qs generalizing kept s with
  | nil => simp [tickQueries, setQueries]
  | cons q rest ih =>
    unfold tickQueries
    split_ifs
    · cases c <;> simp
    · exact (ih kept _).trans ((List.sublist_append_right [q] rest).append_left kept |>.map Query.base)
    · refine (ih _ s).trans ?_
      simp

theorem cacheTick_bases (p : Params) (c : CacheId) (s : State) :
    ((getCache c (cacheTick p c s)).queries.map Query.base).Sublist
      ((getCache c s).queries.map Query.base) :=
  tickQueries_bases p c [] _ s

/-- Bases taken from a list with at most one query are at most one, and have what its query has. -/
theorem bases_sublist {P : Word → Prop} {qs qs' : List Query}
    (h : (qs'.map Query.base).Sublist (qs.map Query.base)) (hlen : qs.length ≤ 1) (hP : ∀ q ∈ qs, P q.base) :
    qs'.length ≤ 1 ∧ ∀ q ∈ qs', P q.base := by
  refine ⟨by simpa using h.length_le.trans (by simpa using hlen), fun q hq => ?_⟩
  obtain ⟨q0, hq0, e⟩ := List.mem_map.mp (h.subset (List.mem_map_of_mem hq))
  rw [← e]
  exact hP q0 hq0

/-- Where all queries are for the block of an address, none is pending for it only if there is none. -/
theorem queries_nil_of_not_pending {p : Params} {c : CacheId} {a : Word} {s : State}
    (h : pendingQuery p c a s = none) (hown : ∀ q ∈ (getCache c s).queries, q.base = blockBase p a) :
    (getCache c s).queries = [] := by
  unfold pendingQuery at h
  rw [List.find?_eq_none] at h
  refine List.eq_nil_iff_forall_not_mem.mpr fun q hq => h q hq ?_
  simp [hown q hq]

/-! ## The query Fetch waits for -/

theorem onlyOwnFetch_congr {s t : State} (h : Execution.OnlyOwnFetch s) (hpc : t.pc = s.pc)
    (hifde : t.ifde = s.ifde) (hic : t.ic = s.ic) : Execution.OnlyOwnFetch t := by
  rwa [Execution.OnlyOwnFetch, hpc, hifde, hic]

/-- A repair cancels the query before it moves `PC` (44_execute.md R200). -/
theorem onlyOwnFetch_executeStage {s : State} (h : Execution.OnlyOwnFetch s) :
    Execution.OnlyOwnFetch (executeStage defaultParams s) := by
  rcases executeStage_keeps_or_repairs defaultParams s with ⟨hpc, hifde, hic⟩ | ⟨-, -, e⟩
  · exact onlyOwnFetch_congr h hpc hifde hic
  · have hnone : (executeStage defaultParams s).ic.queries = [] := by
      simp [e, repair, Execution.cancelWrongFetch_onlyOwnFetch h]
    rw [Execution.OnlyOwnFetch, hnone]
    exact ⟨Nat.zero_le 1, nofun⟩

/-- Fetch goes on from a query only when it is gone, and opens one only when there is none (R158 to R161). -/
theorem onlyOwnFetch_fetchStage {s : State} (h : Execution.OnlyOwnFetch s) :
    Execution.OnlyOwnFetch (fetchStage defaultParams refIsHalt s) := by
  obtain ⟨hlen, hown⟩ := h
  have hnil := fun hq => queries_nil_of_not_pending (p := defaultParams) (c := .ic) (a := s.pc) (s := s) hq
    fun q hq => (hown q hq).2.2
  unfold fetchStage fetchOpen
  split_ifs
  · exact ⟨hlen, hown⟩
  · exact ⟨hlen, hown⟩
  rcases cacheRead_cases defaultParams .ic s.pc 4 s with
    ⟨-, e⟩ | ⟨-, q, -, e⟩ | ⟨-, hq, i, l, -, e⟩ | ⟨-, hq, -, e⟩ <;> rw [e]
  · exact ⟨hlen, hown⟩
  · exact ⟨hlen, fun q hq => ⟨rfl, rfl, (hown q hq).2.2⟩⟩
  · have hnone : s.ic.queries = [] := hnil hq
    simp [Execution.OnlyOwnFetch, hnone]
  · have hnone : s.ic.queries = [] := hnil hq
    simp [Execution.OnlyOwnFetch, hnone, markFetchStall]

theorem onlyOwnFetch_cacheTick (c : CacheId) {s : State} (h : Execution.OnlyOwnFetch s) :
    Execution.OnlyOwnFetch (cacheTick defaultParams c s) := by
  cases c with
  | dc => exact onlyOwnFetch_congr h (by simp) (by simp) (by simp)
  | ic =>
    obtain ⟨hlen, hown⟩ := h
    simpa [Execution.OnlyOwnFetch] using bases_sublist
      (P := fun b => s.ifde.valid = true ∧ s.ifde.memStall = true ∧ b = blockBase defaultParams s.pc)
      (cacheTick_bases defaultParams .ic s) hlen hown

/-! ## The query Memory waits for -/

/-- The data cache has at most the query that Memory is stalled on, and the access it is stalled on is kept. -/
def OnlyOwnAccess (s : State) : Prop :=
  s.dc.queries.length ≤ 1 ∧
  (∀ q ∈ s.dc.queries, s.dcacheStalled = true ∧ q.base = blockBase defaultParams s.exmem.aluResult) ∧
  (s.dcacheStalled = true → s.exmem = s.exmemCkpt)

theorem oneQueryInv_iff {s : State} : OneQueryInv s ↔ Execution.OnlyOwnFetch s ∧ OnlyOwnAccess s := by
  unfold OneQueryInv Execution.OnlyOwnFetch OnlyOwnAccess
  tauto

theorem onlyOwnAccess_congr {s t : State} (h : OnlyOwnAccess s) (hdc : t.dc = s.dc)
    (hstall : t.dcacheStalled = s.dcacheStalled) (hexmem : t.exmem = s.exmem)
    (hckpt : t.exmemCkpt = s.exmemCkpt) : OnlyOwnAccess t := by
  rwa [OnlyOwnAccess, hdc, hstall, hexmem, hckpt]

/-- A restore of what `EXMEM` holds already changes nothing (45_memory_writeback.md R222). -/
theorem restoreExMem_kept {s : State} (h : s.dcacheStalled = true → s.exmem = s.exmemCkpt) :
    restoreExMem s = s := by
  unfold restoreExMem
  split_ifs with hs
  · have e := h hs
    cases s
    cases e
    rfl
  · rfl

/-- A stall keeps the access in `EXMEM` and in the checkpoint (R226). -/
theorem onlyOwnAccess_stallMemory {s : State} (hlen : s.dc.queries.length ≤ 1)
    (hown : ∀ q ∈ s.dc.queries, q.base = blockBase defaultParams s.exmem.aluResult)
    (hkept : s.dcacheStalled = true → s.exmem = s.exmemCkpt) : OnlyOwnAccess (stallMemory s) := by
  unfold stallMemory
  split_ifs with hs
  · exact ⟨hlen, fun q hq => ⟨hs, hown q hq⟩, hkept⟩
  · exact ⟨hlen, fun q hq => ⟨rfl, hown q hq⟩, fun _ => rfl⟩

theorem onlyOwnAccess_memoryMove {s : State} (h : OnlyOwnAccess s) :
    OnlyOwnAccess (memoryMove defaultParams s) := by
  obtain ⟨hlen, hown, hkept⟩ := h
  by_cases hp : passesThrough s.exmem = true
  · rw [memoryMove, if_pos hp]
    exact onlyOwnAccess_congr ⟨hlen, hown, hkept⟩ (by simp) (by simp) (by simp) (by simp)
  rw [Bool.not_eq_true] at hp
  have hbase := fun q hq => (hown q hq).2
  have hnil := fun hq => queries_nil_of_not_pending (p := defaultParams) (c := .dc) (s := s) hq hbase
  rcases dataAccess_cases defaultParams s with ⟨-, e⟩ | ⟨q, -, e⟩ | ⟨-, hq, i, l, -, e⟩ | ⟨hq, -, e⟩
  · rw [memoryMove_raised hp e]
    exact ⟨hlen, hown, hkept⟩
  · rw [memoryMove_waiting hp e]
    exact onlyOwnAccess_stallMemory hlen hbase hkept
  · have hnone : s.dc.queries = [] := hnil hq
    rw [memoryMove_done hp e]
    simp [OnlyOwnAccess, hnone]
  · have hnone : s.dc.queries = [] := hnil hq
    rw [memoryMove_waiting hp e]
    exact onlyOwnAccess_stallMemory (by simp [hnone]) (by simp [hnone]) (by simpa using hkept)

theorem onlyOwnAccess_memoryStage {s : State} (h : OnlyOwnAccess s) :
    OnlyOwnAccess (memoryStage defaultParams s) := by
  have hkept := h
  obtain ⟨-, -, hkept⟩ := hkept
  unfold memoryStage
  rw [restoreExMem_kept hkept]
  split_ifs
  · exact h
  · exact h
  · exact onlyOwnAccess_memoryMove h

/-- Execute fills `EXMEM` only when Memory waits for nothing (44_execute.md R180). -/
theorem onlyOwnAccess_executeStage {s : State} (h : OnlyOwnAccess s) :
    OnlyOwnAccess (executeStage defaultParams s) := by
  cases hs : s.dcacheStalled with
  | true => rwa [executeStage_skip (.inr (.inl hs))]
  | false =>
    obtain ⟨-, hown, -⟩ := h
    have hnone : s.dc.queries = [] := by
      refine List.eq_nil_iff_forall_not_mem.mpr fun q hq => ?_
      rw [(hown q hq).1] at hs
      cases hs
    simp [OnlyOwnAccess, hnone, hs]

theorem onlyOwnAccess_cacheTick (c : CacheId) {s : State} (h : OnlyOwnAccess s) :
    OnlyOwnAccess (cacheTick defaultParams c s) := by
  cases c with
  | ic => exact onlyOwnAccess_congr h (by simp) (by simp) (by simp) (by simp)
  | dc =>
    obtain ⟨hlen, hown, hkept⟩ := h
    obtain ⟨hlen', hown'⟩ := bases_sublist
      (P := fun b => s.dcacheStalled = true ∧ b = blockBase defaultParams s.exmem.aluResult)
      (cacheTick_bases defaultParams .dc s) hlen hown
    exact ⟨hlen', by simpa using hown', by simpa using hkept⟩

/-- Settles O16: each of the two caches is used by one stage, which waits for its query before it goes on. -/
theorem stepKeepsOneQuery : Obligations.StepKeepsOneQuery := by
  intro s t h hstep
  obtain ⟨hfetch, haccess⟩ := oneQueryInv_iff.mp h
  refine oneQueryInv_iff.mpr ⟨?_, ?_⟩
  · refine step_preserves (P := Execution.OnlyOwnFetch) ?_ ?_ ?_ ?_ ?_ ?_ ?_ ?_ hfetch hstep
    · exact fun _ h => onlyOwnFetch_congr h (by simp) (by simp) (by simp)
    · exact fun _ h => onlyOwnFetch_congr h (by simp) (by simp) (by simp)
    · exact fun _ h => onlyOwnFetch_congr h (by simp) (by simp) (by simp)
    · exact fun _ => onlyOwnFetch_executeStage
    · exact fun _ _ h => onlyOwnFetch_congr h (by simp) (by simp) (by simp)
    · exact fun _ => onlyOwnFetch_fetchStage
    · exact fun c _ => onlyOwnFetch_cacheTick c
    · exact fun _ _ h => h
  · refine step_preserves (P := OnlyOwnAccess) ?_ ?_ ?_ ?_ ?_ ?_ ?_ ?_ haccess hstep
    · exact fun _ h => onlyOwnAccess_congr h (by simp) (by simp) (by simp) (by simp)
    · exact fun _ h => onlyOwnAccess_congr h (by simp) (by simp) (by simp) (by simp)
    · exact fun _ => onlyOwnAccess_memoryStage
    · exact fun _ => onlyOwnAccess_executeStage
    · exact fun _ _ h => onlyOwnAccess_congr h (by simp) (by simp) (by simp) (by simp)
    · exact fun _ h => onlyOwnAccess_congr h (by simp) (by simp) (by simp) (by simp)
    · exact fun c _ => onlyOwnAccess_cacheTick c
    · exact fun _ _ h => h

end Sys2Proof.Machine.Invariant
end

section
/-!
PROOF of O14. The invariant of the caches is said of what stands where (`CachesOk`): a line put with the next
timestamp, a query list replaced; every operation of 40_cache.md is made of these two.
-/

namespace Sys2Proof.Machine.Invariant

/-! ## The invariant, over lines and query lists -/

/-- The line at an index of a cache. -/
abbrev Lookups := CacheId → Nat → Option Line

/-- The query lists of the two caches. -/
abbrev Queues := CacheId → List Query

/-- The lines of a state. -/
def linesOf (s : State) : Lookups := fun c i => tableGet (getCache c s).lines i

/-- The query lists of a state. -/
def queriesOf (s : State) : Queues := fun c => (getCache c s).queries

/-- One line put at an index of one cache. -/
def putLine (look : Lookups) (c : CacheId) (i : Nat) (l : Line) : Lookups :=
  fun c' j => if c' = c ∧ j = i then some l else look c' j

/-- One query list replaced. -/
def putQueue (queues : Queues) (c : CacheId) (qs : List Query) : Queues :=
  fun c' => if c' = c then qs else queues c'

/-- A line has the shape its place asks for (10_state.md R42). -/
structure LineFits (c : CacheId) (i : Nat) (l : Line) : Prop where
  index : i < setsOf defaultParams c * waysOf defaultParams c
  set : i / waysOf defaultParams c = l.tag % setsOf defaultParams c
  block : (l.tag + 1) * defaultParams.block ≤ 2 ^ 64
  whole : l.bytes.length = defaultParams.block

/-- A query is one that a cache with these lines can have (10_state.md R44, R45). -/
structure QueryFits (look : Nat → Option Line) (q : Query) : Prop where
  aligned : q.base.toNat % defaultParams.block = 0
  started : 1 ≤ q.rem
  bounded : q.rem ≤ missLatency
  absent : ∀ i l, look i = some l → l.tag ≠ blockNumber defaultParams q.base

/-- `CacheInv`, for both caches at once. -/
structure CachesOk (look : Lookups) (queues : Queues) (ts : Nat) : Prop where
  fits : ∀ c i l, look c i = some l → LineFits c i l
  unique : ∀ c i j l l', look c i = some l → look c j = some l' → l.tag = l'.tag → i = j
  stamped : ∀ c i l, look c i = some l → 1 ≤ l.stamp ∧ l.stamp ≤ ts
  apart : ∀ c c' i j l l', look c i = some l → look c' j = some l' → l.stamp = l'.stamp → c = c' ∧ i = j
  nodup : ∀ c, ((queues c).map Query.base).Nodup
  queries : ∀ c, ∀ q ∈ queues c, QueryFits (look c) q

theorem CachesOk.linesInv {s : State} (h : CachesOk (linesOf s) (queriesOf s) s.ts) (c : CacheId) :
    LinesInv defaultParams c s := by
  refine ⟨fun i l hi => ?_, fun i j l l' hi hj heq => ?_⟩
  · obtain ⟨hindex, hset, hblock, hwhole⟩ := h.fits c i l hi
    obtain ⟨hlow, hhigh⟩ := h.stamped c i l hi
    exact ⟨hindex, hset, hblock, hwhole, hlow, hhigh⟩
  · rcases heq with heq | heq
    · exact h.unique c i j l l' hi hj heq
    · exact (h.apart c c i j l l' hi hj heq).2

theorem CachesOk.queriesInv {s : State} (h : CachesOk (linesOf s) (queriesOf s) s.ts) (c : CacheId) :
    QueriesInv defaultParams c s := by
  refine ⟨h.nodup c, fun q hq => ?_⟩
  obtain ⟨haligned, hstarted, hbounded, habsent⟩ := h.queries c q hq
  exact ⟨haligned, hstarted, hbounded, habsent⟩

theorem cacheInv_iff {s : State} : CacheInv s ↔ CachesOk (linesOf s) (queriesOf s) s.ts := by
  constructor
  · rintro ⟨hic, hdc, hqi, hqd, hapart⟩
    have hlines : ∀ c, LinesInv defaultParams c s := fun c => by cases c <;> assumption
    have hqueries : ∀ c, QueriesInv defaultParams c s := fun c => by cases c <;> assumption
    refine ⟨fun c i l hi => ?_, fun c i j l l' hi hj ht => ?_, fun c i l hi => ?_, fun c c' i j l l' hi hj ht => ?_,
      fun c => (hqueries c).1, fun c q hq => ?_⟩
    · obtain ⟨hindex, hset, hblock, hwhole, -, -⟩ := (hlines c).1 i l hi
      exact ⟨hindex, hset, hblock, hwhole⟩
    · exact (hlines c).2 i j l l' hi hj (.inl ht)
    · obtain ⟨-, -, -, -, hlow, hhigh⟩ := (hlines c).1 i l hi
      exact ⟨hlow, hhigh⟩
    · cases c <;> cases c'
      · exact ⟨rfl, (hlines .ic).2 i j l l' hi hj (.inr ht)⟩
      · exact absurd ht (hapart i j l l' hi hj)
      · exact absurd ht.symm (hapart j i l' l hj hi)
      · exact ⟨rfl, (hlines .dc).2 i j l l' hi hj (.inr ht)⟩
    · obtain ⟨haligned, hstarted, hbounded, habsent⟩ := (hqueries c).2 q hq
      exact ⟨haligned, hstarted, hbounded, habsent⟩
  · intro h
    refine ⟨h.linesInv .ic, h.linesInv .dc, h.queriesInv .ic, h.queriesInv .dc, fun i j l l' hi hj ht => ?_⟩
    cases (h.apart .ic .dc i j l l' hi hj ht).1

theorem cacheInv_congr {s t : State} (h : CacheInv s) (hic : t.ic = s.ic) (hdc : t.dc = s.dc)
    (hts : t.ts = s.ts) : CacheInv t := by
  have hcache : ∀ c, getCache c t = getCache c s := fun c => by cases c <;> assumption
  have hlines : linesOf t = linesOf s := funext fun c => by unfold linesOf; rw [hcache c]
  have hqueries : queriesOf t = queriesOf s := funext fun c => by unfold queriesOf; rw [hcache c]
  rw [cacheInv_iff] at h ⊢
  rwa [hlines, hqueries, hts]

/-! ## A line put, a query list replaced -/

/-- A line put with the next timestamp, where no other line and no query has its block. -/
theorem CachesOk.put {look : Lookups} {queues : Queues} {ts : Nat} (h : CachesOk look queues ts) {c : CacheId}
    {i : Nat} {l : Line} (hfits : LineFits c i l) (hstamp : l.stamp = ts + 1)
    (hother : ∀ j l', look c j = some l' → l'.tag = l.tag → j = i)
    (hqueries : ∀ q ∈ queues c, l.tag ≠ blockNumber defaultParams q.base) :
    CachesOk (putLine look c i l) queues (ts + 1) := by
  have cases : ∀ {c' j l'}, putLine look c i l c' j = some l' → (c' = c ∧ j = i ∧ l' = l) ∨ look c' j = some l' := by
    intro c' j l' hj
    unfold putLine at hj
    split_ifs at hj with hput
    · exact .inl ⟨hput.1, hput.2, (Option.some.inj hj).symm⟩
    · exact .inr hj
  have older : ∀ {c' j l'}, look c' j = some l' → l'.stamp ≠ l.stamp := fun hj => by
    have := (h.stamped _ _ _ hj).2
    omega
  refine ⟨fun c' j l' hj => ?_, fun c' j k l1 l2 h1 h2 ht => ?_, fun c' j l' hj => ?_,
    fun c1 c2 j k l1 l2 h1 h2 hs => ?_, h.nodup, fun c' q hq => ?_⟩
  · rcases cases hj with ⟨rfl, rfl, rfl⟩ | hold
    · exact hfits
    · exact h.fits _ _ _ hold
  · rcases cases h1 with ⟨rfl, rfl, rfl⟩ | old1 <;> rcases cases h2 with ⟨e, rfl, rfl⟩ | old2
    · rfl
    · exact (hother k l2 old2 ht.symm).symm
    · exact hother j l1 (e ▸ old1) ht
    · exact h.unique c' j k l1 l2 old1 old2 ht
  · rcases cases hj with ⟨rfl, rfl, rfl⟩ | hold
    · omega
    · have := h.stamped _ _ _ hold
      omega
  · rcases cases h1 with ⟨rfl, rfl, rfl⟩ | old1 <;> rcases cases h2 with ⟨rfl, rfl, rfl⟩ | old2
    · exact ⟨rfl, rfl⟩
    · exact absurd hs.symm (older old2)
    · exact absurd hs (older old1)
    · exact h.apart c1 c2 j k l1 l2 old1 old2 hs
  · obtain ⟨haligned, hstarted, hbounded, habsent⟩ := h.queries c' q hq
    refine ⟨haligned, hstarted, hbounded, fun j l' hj => ?_⟩
    rcases cases hj with ⟨rfl, rfl, rfl⟩ | hold
    · exact hqueries q hq
    · exact habsent j l' hold

/-- A line that is put again at its place, with the next timestamp and other bytes (40_cache.md R116, R117). -/
theorem CachesOk.putAgain {look : Lookups} {queues : Queues} {ts : Nat} (h : CachesOk look queues ts)
    {c : CacheId} {i : Nat} {l l0 : Line} (hold : look c i = some l0) (htag : l.tag = l0.tag)
    (hstamp : l.stamp = ts + 1) (hwhole : l.bytes.length = l0.bytes.length) :
    CachesOk (putLine look c i l) queues (ts + 1) := by
  obtain ⟨hindex, hset, hblock, hlen⟩ := h.fits c i l0 hold
  refine h.put ⟨hindex, ?_, ?_, hwhole.trans hlen⟩ hstamp (fun j l' hj ht => ?_) fun q hq => ?_
  · rwa [htag]
  · rwa [htag]
  · exact h.unique c j i l' l0 hj hold (ht.trans htag)
  · rw [htag]
    exact (h.queries c q hq).absent i l0 hold

theorem CachesOk.putQueue {look : Lookups} {queues : Queues} {ts : Nat} (h : CachesOk look queues ts)
    {c : CacheId} {qs : List Query} (hnodup : (qs.map Query.base).Nodup) (hfit : ∀ q ∈ qs, QueryFits (look c) q) :
    CachesOk look (putQueue queues c qs) ts := by
  refine ⟨h.fits, h.unique, h.stamped, h.apart, fun c' => ?_, fun c' q hq => ?_⟩ <;>
    unfold Invariant.putQueue at *
  · split_ifs
    · exact hnodup
    · exact h.nodup c'
  · split_ifs at hq with hc
    · exact hc ▸ hfit q hq
    · exact h.queries c' q hq

/-! ## The operations on a state -/

theorem linesOf_setLine (c : CacheId) (i : Nat) (l : Line) (s : State) :
    linesOf (setLine c i l s) = putLine (linesOf s) c i l := by
  funext c' j
  cases c <;> cases c' <;> simp [linesOf, putLine, tableGet_put]

theorem queriesOf_setLine (c : CacheId) (i : Nat) (l : Line) (s : State) :
    queriesOf (setLine c i l s) = queriesOf s := by
  funext c'
  cases c <;> cases c' <;> rfl

theorem linesOf_touchLine (c : CacheId) (i : Nat) (l : Line) (s : State) :
    linesOf (touchLine c i l s) = putLine (linesOf s) c i { l with stamp := s.ts + 1 } :=
  linesOf_setLine ..

theorem queriesOf_touchLine (c : CacheId) (i : Nat) (l : Line) (s : State) :
    queriesOf (touchLine c i l s) = queriesOf s :=
  queriesOf_setLine ..

theorem linesOf_setQueries (c : CacheId) (qs : List Query) (s : State) :
    linesOf (setQueries c qs s) = linesOf s := by
  funext c'
  cases c <;> cases c' <;> rfl

theorem queriesOf_setQueries (c : CacheId) (qs : List Query) (s : State) :
    queriesOf (setQueries c qs s) = putQueue (queriesOf s) c qs := by
  funext c'
  cases c <;> cases c' <;> rfl

theorem cacheInv_touchLine {c : CacheId} {i : Nat} {l : Line} {s : State} (h : CacheInv s)
    (hl : tableGet (getCache c s).lines i = some l) : CacheInv (touchLine c i l s) := by
  rw [cacheInv_iff] at h ⊢
  rw [linesOf_touchLine, queriesOf_touchLine, touchLine_ts]
  exact h.putAgain hl rfl rfl rfl

/-- The completing store: the line is touched and takes the store's bytes (40_cache.md R116). -/
theorem cacheInv_storeLine {c : CacheId} {i off n : Nat} {l : Line} {v : Word} {s : State} (h : CacheInv s)
    (hl : tableGet (getCache c s).lines i = some l) (hn : off + n ≤ l.bytes.length) :
    CacheInv (storeLine defaultParams c i { l with stamp := s.ts + 1 } off n v (touchLine c i l s)) := by
  rw [cacheInv_iff] at h ⊢
  have hlines : linesOf (storeLine defaultParams c i { l with stamp := s.ts + 1 } off n v (touchLine c i l s)) =
      putLine (linesOf s) c i (patchLine { l with stamp := s.ts + 1 } off n v) := by
    rw [show linesOf (storeLine defaultParams c i { l with stamp := s.ts + 1 } off n v (touchLine c i l s)) =
      linesOf (setLine c i (patchLine { l with stamp := s.ts + 1 } off n v) (touchLine c i l s)) by
        funext c'; cases c' <;> rfl, linesOf_setLine, linesOf_touchLine]
    funext c' j
    unfold putLine
    split_ifs <;> rfl
  have hqueries : queriesOf (storeLine defaultParams c i { l with stamp := s.ts + 1 } off n v (touchLine c i l s)) =
      queriesOf s := by
    rw [show queriesOf (storeLine defaultParams c i { l with stamp := s.ts + 1 } off n v (touchLine c i l s)) =
      queriesOf (setLine c i (patchLine { l with stamp := s.ts + 1 } off n v) (touchLine c i l s)) by
        funext c'; cases c' <;> rfl, queriesOf_setLine, queriesOf_touchLine]
  rw [hlines, hqueries, storeLine_ts, touchLine_ts]
  exact h.putAgain hl rfl rfl (Backing.patchLine_length (l := { l with stamp := s.ts + 1 }) v hn)

theorem blockNumber_blockBase (a : Word) :
    blockNumber defaultParams (blockBase defaultParams a) = blockNumber defaultParams a :=
  FrontEnd.blockNumber_blockBase a

/-- A lookup that finds nothing has looked at every line that could hold the block (40_cache.md R111). -/
theorem absent_of_cacheLookup_none {c : CacheId} {a : Word} {s : State} (h : CacheInv s)
    (hnone : cacheLookup defaultParams c a s = none) (i : Nat) (l : Line) (hl : linesOf s c i = some l) :
    l.tag ≠ blockNumber defaultParams a := by
  obtain ⟨-, hset, -, -⟩ := (cacheInv_iff.mp h).fits c i l hl
  intro htag
  have hways : 0 < waysOf defaultParams c := by cases c <;> decide
  have hi : lineIndex defaultParams c a (i % waysOf defaultParams c) = i := by
    rw [lineIndex, setIndex, ← htag, ← hset, Nat.div_add_mod']
  exact cacheLookup_none.mp hnone _ (Nat.mod_lt i hways) l (by rw [hi]; exact hl) htag

/-- A miss opens a query for a block that is in no line and has none (R113). -/
theorem cacheInv_openQuery {c : CacheId} {a : Word} {s : State} (h : CacheInv s)
    (hq : pendingQuery defaultParams c a s = none) (hl : cacheLookup defaultParams c a s = none) :
    CacheInv (setQueries c ((getCache c s).queries ++
      [{ base := blockBase defaultParams a, rem := missLatency }]) s) := by
  have hok := cacheInv_iff.mp h
  rw [cacheInv_iff, linesOf_setQueries, queriesOf_setQueries, setQueries_ts]
  refine hok.putQueue ?_ fun q hmem => ?_
  · rw [List.map_append, List.map_singleton]
    refine List.Nodup.append (hok.nodup c) (List.nodup_singleton _) ?_
    rw [List.disjoint_singleton]
    intro hmem
    obtain ⟨q, hmem, e⟩ := List.mem_map.mp hmem
    exact List.find?_eq_none.mp hq q hmem (by simp [e])
  · rcases List.mem_append.mp hmem with hmem | hmem
    · exact hok.queries c q hmem
    · obtain rfl := List.mem_singleton.mp hmem
      refine ⟨Backing.blockBase_aligned a, Nat.le_add_left 1 9, le_refl _, fun i l hi => ?_⟩
      rw [blockNumber_blockBase]
      exact absent_of_cacheLookup_none h hl i l hi

theorem cacheInv_cacheRead (c : CacheId) (a : Word) (n : Nat) {s : State} (h : CacheInv s) :
    CacheInv (cacheRead defaultParams c a n s).2 := by
  rcases cacheRead_cases defaultParams c a n s with
    ⟨-, e⟩ | ⟨-, q, -, e⟩ | ⟨-, -, i, l, hl, e⟩ | ⟨-, hq, hl, e⟩ <;> rw [e]
  · exact cacheInv_congr h rfl rfl rfl
  · exact h
  · exact cacheInv_touchLine h (cacheLookup_some hl).2.1
  · exact cacheInv_openQuery h hq hl

theorem cacheInv_cacheCancel (a : Word) {s : State} (h : CacheInv s) :
    CacheInv (cacheCancel defaultParams .ic a s) := by
  have hok := cacheInv_iff.mp h
  unfold cacheCancel
  rw [cacheInv_iff, linesOf_setQueries, queriesOf_setQueries, setQueries_ts]
  refine hok.putQueue ?_ fun q hmem => hok.queries .ic q (List.mem_of_mem_eraseP hmem)
  exact (hok.nodup .ic).sublist (List.eraseP_sublist.map Query.base)

/-! ## Fill and Tick (40_cache.md R118, R119) -/

/-- A way of the set of an address is one of the cache's, and of that set. -/
theorem lineIndex_bounds {c : CacheId} {a : Word} {w : Nat} (hw : w < waysOf defaultParams c) :
    lineIndex defaultParams c a w < setsOf defaultParams c * waysOf defaultParams c ∧
      lineIndex defaultParams c a w / waysOf defaultParams c =
        blockNumber defaultParams a % setsOf defaultParams c := by
  have hways : 0 < waysOf defaultParams c := Nat.zero_lt_of_lt hw
  have hset : setIndex defaultParams c a < setsOf defaultParams c := Nat.mod_lt _ (by cases c <;> decide)
  constructor
  · calc lineIndex defaultParams c a w
        < (setIndex defaultParams c a + 1) * waysOf defaultParams c := by rw [lineIndex, Nat.succ_mul]; omega
      _ ≤ setsOf defaultParams c * waysOf defaultParams c := Nat.mul_le_mul_right _ hset
  · rw [lineIndex, Nat.mul_comm, Nat.mul_add_div hways, Nat.div_eq_of_lt hw, Nat.add_zero, setIndex]

/-- The line of a fill has the shape of its place. -/
theorem lineFits_filled (c : CacheId) (b : Word) (s : State) :
    LineFits c (lineIndex defaultParams c b (victimWay defaultParams c b s))
      { tag := blockNumber defaultParams b, stamp := s.ts + 1, bytes := fillBytes defaultParams b s.mem } := by
  obtain ⟨hindex, hset⟩ := lineIndex_bounds (c := c) (a := b) (victimWay_lt defaultParams c b s (by cases c <;> decide))
  refine ⟨hindex, hset, ?_, fillBytes_length defaultParams (by decide) b s.mem⟩
  show (b.toNat / 32 + 1) * 32 ≤ 2 ^ 64
  omega

/-- Different blocks have different numbers. -/
theorem base_eq_of_blockNumber_eq {b b' : Word} (hb : b.toNat % defaultParams.block = 0)
    (hb' : b'.toNat % defaultParams.block = 0)
    (h : blockNumber defaultParams b = blockNumber defaultParams b') : b = b' := by
  rw [← Backing.tagBase_blockNumber hb, h, Backing.tagBase_blockNumber hb']

/-- A fill whose query has been taken off the list. -/
theorem cachesOk_cacheFill {c : CacheId} {q : Query} {queues : Queues} {s : State}
    (h : CachesOk (linesOf s) queues s.ts) (hq : QueryFits (linesOf s c) q)
    (hne : ∀ q' ∈ queues c, q'.base ≠ q.base) :
    CachesOk (linesOf (cacheFill defaultParams c q.base s)) queues (cacheFill defaultParams c q.base s).ts := by
  unfold cacheFill
  rw [linesOf_touchLine, touchLine_ts]
  refine h.put (lineFits_filled c q.base s) rfl (fun j l' hj ht => absurd ht (hq.absent j l' hj)) fun q' hmem e => ?_
  exact hne q' hmem (base_eq_of_blockNumber_eq hq.aligned (h.queries c q' hmem).aligned e).symm

theorem putQueue_same (queues : Queues) (c : CacheId) (qs : List Query) : putQueue queues c qs c = qs :=
  if_pos rfl

theorem putQueue_putQueue (queues : Queues) (c : CacheId) (qs qs' : List Query) :
    putQueue (putQueue queues c qs) c qs' = putQueue queues c qs' := by
  funext c'
  unfold putQueue
  split_ifs <;> rfl

theorem queriesOf_cacheFill (c : CacheId) (b : Word) (s : State) :
    queriesOf (cacheFill defaultParams c b s) = queriesOf s :=
  queriesOf_touchLine ..

/-- The queries counted down so far and those to come are what the cache has when the tick ends. -/
theorem cacheInv_tickQueries {c : CacheId} {kept qs : List Query} {s : State}
    (h : CachesOk (linesOf s) (putQueue (queriesOf s) c (kept ++ qs)) s.ts) :
    CacheInv (tickQueries defaultParams c kept qs s) := by
  induction qs generalizing kept s with
  | nil =>
    rw [List.append_nil] at h
    rwa [tickQueries, cacheInv_iff, linesOf_setQueries, queriesOf_setQueries, setQueries_ts]
  | cons q rest ih =>
    have hqueries := h.queries c
    have hnodup := h.nodup c
    rw [putQueue_same] at hqueries hnodup
    have hq : QueryFits (linesOf s c) q := hqueries q (by simp)
    obtain ⟨haligned, hstarted, hbounded, habsent⟩ := hq
    unfold tickQueries
    split_ifs with h0 h1
    · omega
    · have hsub : (kept ++ rest).Sublist (kept ++ q :: rest) := (List.sublist_cons_self q rest).append_left kept
      have hrest : CachesOk (linesOf s) (putQueue (queriesOf s) c (kept ++ rest)) s.ts := by
        rw [← putQueue_putQueue _ c (kept ++ q :: rest)]
        exact h.putQueue (hnodup.sublist (hsub.map _)) fun q' hmem => hqueries q' (hsub.subset hmem)
      have hne : ∀ q' ∈ putQueue (queriesOf s) c (kept ++ rest) c, q'.base ≠ q.base := by
        intro q' hmem e
        rw [putQueue_same] at hmem
        rw [List.map_append, List.map_cons, List.nodup_middle, ← List.map_append] at hnodup
        exact (List.nodup_cons.mp hnodup).1 (e ▸ List.mem_map_of_mem hmem)
      exact ih (by
        rw [queriesOf_cacheFill]
        exact cachesOk_cacheFill hrest ⟨haligned, hstarted, hbounded, habsent⟩ hne)
    · refine ih ?_
      rw [← putQueue_putQueue _ c (kept ++ q :: rest), List.append_assoc, List.singleton_append]
      refine h.putQueue (by simpa using hnodup) fun q' hmem => ?_
      simp only [List.mem_append, List.mem_cons] at hmem hqueries
      rcases hmem with hmem | rfl | hmem
      · exact hqueries q' (.inl hmem)
      · exact ⟨haligned, Nat.le_sub_of_add_le (by omega), (Nat.sub_le _ _).trans hbounded, habsent⟩
      · exact hqueries q' (.inr (.inr hmem))

theorem cacheInv_cacheTick (c : CacheId) {s : State} (h : CacheInv s) :
    CacheInv (cacheTick defaultParams c s) := by
  refine cacheInv_tickQueries ?_
  have hsame : putQueue (queriesOf s) c ([] ++ (getCache c s).queries) = queriesOf s := by
    funext c'
    unfold putQueue
    split_ifs with hc
    · rw [hc]; rfl
    · rfl
  rw [hsame]
  exact cacheInv_iff.mp h

/-! ## The stages -/

theorem cacheInv_memoryMove {s : State} (h : CacheInv s) : CacheInv (memoryMove defaultParams s) := by
  by_cases hp : passesThrough s.exmem = true
  · rw [memoryMove, if_pos hp]
    exact cacheInv_congr h (by simp) (by simp) (by simp)
  rw [Bool.not_eq_true] at hp
  rcases dataAccess_cases defaultParams s with ⟨-, e⟩ | ⟨q, -, e⟩ | ⟨hx, -, i, l, hl, e⟩ | ⟨hq, hl, e⟩
  · rw [memoryMove_raised hp e]
    exact cacheInv_congr h rfl rfl rfl
  · rw [memoryMove_waiting hp e]
    exact cacheInv_congr h (by simp) (by simp) (by simp)
  · obtain ⟨-, hi, -⟩ := cacheLookup_some hl
    have hwhole : l.bytes.length = defaultParams.block := ((cacheInv_iff.mp h).fits .dc i l hi).whole
    have hhit : CacheInv (hitState defaultParams i l s) := by
      unfold hitState
      split
      · exact cacheInv_touchLine h hi
      · exact cacheInv_storeLine h hi (by rw [hwhole]; exact Backing.crossesBlock_eq_false.mp hx)
    rw [memoryMove_done hp e]
    exact cacheInv_congr hhit (by simp) (by simp) (by simp)
  · rw [memoryMove_waiting hp e]
    exact cacheInv_congr (cacheInv_openQuery h hq hl) (by simp) (by simp) (by simp)

theorem cacheInv_memoryStage {s : State} (h : CacheInv s) : CacheInv (memoryStage defaultParams s) := by
  unfold memoryStage
  split_ifs
  · exact h
  · exact h
  · exact cacheInv_memoryMove (cacheInv_congr h (by simp) (by simp) (by simp))

theorem cacheInv_executeStage {s : State} (h : CacheInv s) : CacheInv (executeStage defaultParams s) := by
  rcases executeStage_keeps_or_repairs defaultParams s with ⟨-, -, hic⟩ | ⟨-, -, e⟩
  · exact cacheInv_congr h hic (by simp) (by simp)
  · have hcancel : CacheInv (cancelWrongFetch defaultParams s) := by
      unfold cancelWrongFetch
      split_ifs
      · exact cacheInv_cacheCancel s.pc h
      · exact h
    rw [e]
    exact cacheInv_congr hcancel (by simp [repair]) (by simp) (by simp)

theorem cacheInv_fetchStage {s : State} (h : CacheInv s) :
    CacheInv (fetchStage defaultParams refIsHalt s) := by
  have hread := cacheInv_cacheRead .ic s.pc 4 h
  unfold fetchStage fetchOpen
  split_ifs
  · exact h
  · exact cacheInv_congr h rfl rfl rfl
  rcases e : cacheRead defaultParams .ic s.pc 4 s with ⟨_ | k | ⟨d, i⟩, s1⟩ <;> rw [e] at hread
  · exact hread
  · exact cacheInv_congr hread (by simp) (by simp) (by simp)
  · exact cacheInv_congr hread (by simp) (by simp) (by simp)

/-- Settles O14: every procedure of the cycle is made of cache operations that keep the invariant. -/
theorem stepKeepsCachesWellFormed : Obligations.StepKeepsCachesWellFormed := by
  intro s t h hstep
  refine step_preserves (P := CacheInv) ?_ ?_ ?_ ?_ ?_ ?_ ?_ ?_ h hstep
  · exact fun _ h => cacheInv_congr h (by simp) (by simp) (by simp)
  · exact fun _ h => cacheInv_congr h (by simp) (by simp) (by simp)
  · exact fun _ => cacheInv_memoryStage
  · exact fun _ => cacheInv_executeStage
  · exact fun _ _ h => cacheInv_congr h (by simp) (by simp) (by simp)
  · exact fun _ => cacheInv_fetchStage
  · exact fun c _ => cacheInv_cacheTick c
  · exact fun _ _ h => cacheInv_congr h rfl rfl rfl

end Sys2Proof.Machine.Invariant
end

section
/-!
PROOFS of O5, O11 and O12: words of the spec, and the state after `Initialize` (10_state.md R47, 46_driver.md R245).
-/

namespace Sys2Proof.Encoding

/-- A word decodes to the instruction it is the word of. -/
theorem decodeWord_of_encode {w : Word32} {i : Instr} (hwf : i.wellFormed = true) (h : encode i = w) :
    decodeWord w = .ok i :=
  h ▸ (decodeOfEncode i hwf).1

/-- Settles O5: each word is the encoding of its instruction. -/
theorem decodeExamples : Obligations.DecodeExamples := by
  refine ⟨?_, ?_, ?_, ?_, ?_, ?_, ?_, ?_, ?_, ?_⟩ <;> exact decodeWord_of_encode (by decide) (by decide)

end Sys2Proof.Encoding

namespace Sys2Proof.Machine.Reset

theorem readReg_initCore (p : Params) (s : State) (r : Reg) : readReg (initCore p s) r = 0 := by
  unfold readReg
  split_ifs
  · rfl
  · show (Vector.replicate 31 (0 : Word))[r.toNat]?.getD 0 = 0
    rw [Vector.getElem?_replicate]
    split_ifs <;> rfl

theorem getCache_initCore (p : Params) (s : State) (c : CacheId) :
    getCache c (initCore p s) = { lines := [], queries := [] } := by
  cases c <;> rfl

/-- Settles O11: `Initialize` writes the values of R47 one by one. -/
theorem initializeValues : Obligations.InitializeValues := by
  intro p s
  refine ⟨readReg_initCore p s, rfl, rfl, rfl, rfl, rfl, rfl, rfl, rfl, rfl, rfl, rfl, rfl, rfl, rfl, rfl, rfl, rfl,
    rfl, fun _ => rfl, fun _ => rfl, fun c i => ?_, fun c => ?_, rfl, rfl⟩
  · rw [getCache_initCore]; rfl
  · rw [getCache_initCore]

/-- Caches that hold nothing are well formed. -/
theorem cacheInv_initCore (s : State) : CacheInv (initCore defaultParams s) := by
  have hline : ∀ c i l, Invariant.linesOf (initCore defaultParams s) c i ≠ some l := by
    intro c i l h
    rw [Invariant.linesOf, getCache_initCore] at h
    cases h
  have hqueue : ∀ c, Invariant.queriesOf (initCore defaultParams s) c = [] := fun c => by
    rw [Invariant.queriesOf, getCache_initCore]
  refine Invariant.cacheInv_iff.mpr ⟨fun c i l h => absurd h (hline c i l), fun c i _ l _ h => absurd h (hline c i l),
    fun c i l h => absurd h (hline c i l), fun c _ i _ l _ h => absurd h (hline c i l), fun c => ?_, fun c q hq => ?_⟩
  · rw [hqueue]; exact List.nodup_nil
  · rw [hqueue] at hq; cases hq

theorem entryPC_aligned : defaultParams.entryPC.toNat % 4 = 0 := by decide

/-- The reset state is one that `Initialize` gives. -/
theorem initCore_reset : initCore defaultParams State.reset = State.reset := rfl

/-- Settles O12: after `Initialize` there is no address, line, query or halted flag that could break an invariant,
but `PC`, which is the entry address. -/
theorem resetSatisfiesInvariants : Obligations.ResetSatisfiesInvariants := by
  refine ⟨⟨List.Pairwise.nil, nofun⟩, fun s hs => ?_⟩
  have hinit : ∃ s', s = initCore defaultParams s' := hs.elim (fun h => ⟨State.reset, h⟩) id
  obtain ⟨s', rfl⟩ := hinit
  exact ⟨⟨entryPC_aligned, nofun, nofun, nofun⟩, cacheInv_initCore s', nofun, ⟨Nat.zero_le 1, Nat.zero_le 1, nofun, nofun, nofun⟩,
    rfl, nofun, nofun, nofun, nofun, nofun⟩

end Sys2Proof.Machine.Reset
end

section
/-!
PROOFS of O21 to O23: of a cycle only Writeback touches the registers, the flags and the count of retired
instructions (45_memory_writeback.md R236 to R238), and only its end the cycle count (46_driver.md R246).
-/

namespace Sys2Proof.Machine.Frame

/-! ## What Writeback does (45_memory_writeback.md R239) -/

/-- A field that every procedure but Writeback and the hazard unit keeps is what Writeback left. -/
theorem step_keeps_writeback {α : Type} (g : State → α) (memory : ∀ s, g (memoryStage defaultParams s) = g s)
    (execute : ∀ s, g (executeStage defaultParams s) = g s) (decode : ∀ d s, g (decodeStage d s) = g s)
    (fetch : ∀ s, g (fetchStage defaultParams refIsHalt s) = g s)
    (tick : ∀ c s, g (cacheTick defaultParams c s) = g s) (count : ∀ s n, g { s with cycleCount := n } = g s)
    {s t : State} (hr : s.status = .running) (hstep : step s = .next t) :
    g t = g (writebackStage (hazardUnit s)) := by
  rw [FrontEnd.next_eq_refDecode hstep, cycleWith_keeps g count tick fetch hr, unlessFatal_keeps g (decode _),
    beforeDecode_eq, unlessFatal_keeps g execute]
  exact memory _

theorem writebackStage_retires {s : State} (h : Retires s) :
    writebackStage (hazardUnit s) = retire s.memwb (writebackStop (hazardUnit s)) := by
  obtain ⟨hv, hk⟩ := h
  rw [writebackStage_live (by simpa using hv) (by simpa using hk), hazardUnit_memwb]

/-- Where nothing retires, Writeback can at most stop the machine. -/
theorem writebackStage_not_retires {s : State} (h : ¬Retires s) :
    writebackStage (hazardUnit s) = hazardUnit s ∨
      writebackStage (hazardUnit s) = writebackStop (hazardUnit s) := by
  unfold writebackStage
  split_ifs with hv hk
  · exact .inl rfl
  · exact .inr rfl
  · refine absurd ⟨?_, ?_⟩ h
    · simpa using hv
    · simpa using hk

theorem readReg_writebackStage (s : State) (r : Reg) :
    ((Retires s ∧ s.memwb.wb.regWrite = true ∧ r = s.memwb.dst ∧ r ≠ zeroReg) →
      readReg (writebackStage (hazardUnit s)) r = memWbValue s.memwb) ∧
    (¬(Retires s ∧ s.memwb.wb.regWrite = true ∧ r = s.memwb.dst ∧ r ≠ zeroReg) →
      readReg (writebackStage (hazardUnit s)) r = readReg s r) := by
  by_cases h : Retires s
  · have hold : readReg (writebackStop (hazardUnit s)) r = readReg s r := readReg_congr (by simp) r
    rw [writebackStage_retires h, readReg_retire, hold]
    constructor
    · rintro ⟨-, hw, rfl, hne⟩
      exact if_pos ⟨hw, rfl, hne⟩
    · intro hno
      refine if_neg ?_
      rintro ⟨hw, rfl, hne⟩
      exact hno ⟨h, hw, rfl, hne⟩
  · refine ⟨fun hc => absurd hc.1 h, fun _ => readReg_congr ?_ r⟩
    rcases writebackStage_not_retires h with e | e <;> rw [e] <;> simp

/-- Settles O21: the registers after a cycle are those that Writeback left. -/
theorem registersChangeByRetiring : Obligations.RegistersChangeByRetiring := by
  intro s t hr hstep r
  have hregs : t.regs = (writebackStage (hazardUnit s)).regs :=
    step_keeps_writeback State.regs (by simp) (by simp) (by simp) (by simp) (by simp) (fun _ _ => rfl) hr hstep
  obtain ⟨hwritten, hkept⟩ := readReg_writebackStage s r
  rw [readReg_congr hregs]
  exact ⟨hwritten, hkept, readReg_zeroReg t⟩

theorem writebackFlags_eq (m : MemWb) (s : State) :
    (writebackFlags m s).z = (if m.wb.flagsUpdate then m.newZ else s.z) ∧
      (writebackFlags m s).n = (if m.wb.flagsUpdate then m.newN else s.n) := by
  unfold writebackFlags
  split_ifs <;> exact ⟨rfl, rfl⟩

theorem flags_writebackStage (s : State) :
    ((Retires s ∧ s.memwb.wb.flagsUpdate = true) → (writebackStage (hazardUnit s)).z = s.memwb.newZ ∧
      (writebackStage (hazardUnit s)).n = s.memwb.newN) ∧
    (¬(Retires s ∧ s.memwb.wb.flagsUpdate = true) → (writebackStage (hazardUnit s)).z = s.z ∧
      (writebackStage (hazardUnit s)).n = s.n) := by
  by_cases h : Retires s
  · obtain ⟨hz, hn⟩ := writebackFlags_eq s.memwb (writebackReg s.memwb (writebackStop (hazardUnit s)))
    rw [writebackStage_retires h]
    refine ⟨fun ⟨_, hu⟩ => ?_, fun hu => ?_⟩
    · rw [if_pos hu] at hz hn
      exact ⟨hz, hn⟩
    · rw [if_neg fun hc => hu ⟨h, hc⟩] at hz hn
      exact ⟨hz.trans (by simp), hn.trans (by simp)⟩
  · refine ⟨fun hc => absurd hc.1 h, fun _ => ?_⟩
    rcases writebackStage_not_retires h with e | e <;> rw [e] <;> simp

theorem retiredCount_writebackStage (s : State) :
    (Retires s → (writebackStage (hazardUnit s)).retiredCount = s.retiredCount + 1) ∧
    (¬Retires s → (writebackStage (hazardUnit s)).retiredCount = s.retiredCount) := by
  refine ⟨fun h => ?_, fun h => ?_⟩
  · rw [writebackStage_retires h]
    simp [retire]
  · rcases writebackStage_not_retires h with e | e <;> rw [e] <;> simp

/-- Settles O22: the flags and the count of retired instructions are those that Writeback left. -/
theorem flagsAndCountChangeByRetiring : Obligations.FlagsAndCountChangeByRetiring := by
  intro s t hr hstep
  have hz : t.z = (writebackStage (hazardUnit s)).z :=
    step_keeps_writeback State.z (by simp) (by simp) (by simp) (by simp) (by simp) (fun _ _ => rfl) hr hstep
  have hn : t.n = (writebackStage (hazardUnit s)).n :=
    step_keeps_writeback State.n (by simp) (by simp) (by simp) (by simp) (by simp) (fun _ _ => rfl) hr hstep
  have hcount : t.retiredCount = (writebackStage (hazardUnit s)).retiredCount :=
    step_keeps_writeback State.retiredCount (by simp) (by simp) (by simp) (by simp) (by simp) (fun _ _ => rfl) hr hstep
  obtain ⟨hset, hkept⟩ := flags_writebackStage s
  rw [hz, hn, hcount]
  exact ⟨hset, hkept, retiredCount_writebackStage s⟩

/-! ## The cycle count (10_state.md R26) -/

theorem afterFetch_cycleCount (s : State) : (FrontEnd.afterFetch s).cycleCount = s.cycleCount := by
  rw [FrontEnd.afterFetch, unlessFatal_keeps State.cycleCount (by simp), FrontEnd.afterDecode,
    unlessFatal_keeps State.cycleCount (by simp), beforeDecode_eq, unlessFatal_keeps State.cycleCount (by simp)]
  simp [afterMemory]

/-- Settles O23: counting is the last thing a cycle does, and no fault comes after it. -/
theorem cycleCountGrows : Obligations.CycleCountGrows := by
  intro s
  by_cases hr : s.status = .running
  · refine ⟨_, FrontEnd.step_eq_afterFetch hr, ?_⟩
    rw [Driver.unlessFatal_cycleEnd]
    have hcount : (unlessFatal (cacheTick defaultParams .dc)
        (unlessFatal (cacheTick defaultParams .ic) (FrontEnd.afterFetch s))).cycleCount = s.cycleCount := by
      rw [unlessFatal_keeps State.cycleCount (by simp), unlessFatal_keeps State.cycleCount (by simp),
        afterFetch_cycleCount]
    generalize unlessFatal (cacheTick defaultParams .dc)
      (unlessFatal (cacheTick defaultParams .ic) (FrontEnd.afterFetch s)) = u at hcount ⊢
    cases hf : isFatal u with
    | true =>
      obtain ⟨i, hi⟩ := (isFatal_iff u).mp hf
      rw [unlessFatal_fatal hf]
      exact ⟨fun _ hno => absurd hi (hno i), fun _ => hcount⟩
    | false =>
      rw [unlessFatal_ok hf]
      refine ⟨fun _ _ => congrArg (· + 1) hcount, fun h => ?_⟩
      rcases h with h | ⟨i, hi⟩
      · exact absurd hr h
      · rw [(isFatal_iff u).mpr ⟨i, hi⟩] at hf
        cases hf
  · exact ⟨s, (Driver.stoppedMachineStays s hr).1, fun h => absurd h hr, fun _ => rfl⟩

end Sys2Proof.Machine.Frame
end

section
/-!
PROOFS of O26 and O27: who writes `PC` (10_state.md R22), and the cycle that ends the run (45_memory_writeback.md
R234, 46_driver.md R250).
-/

namespace Sys2Proof.Machine.Frame

/-! ## The writers of `PC` -/

/-- Fetch writes `PC` only with the prediction for the word it delivers (43_fetch_decode.md R163), and not
under a control stall. -/
theorem fetchStage_pc_cases (s : State) :
    (fetchStage defaultParams refIsHalt s).pc = s.pc ∨
    (s.controlStalled = false ∧ IfdeReady (fetchStage defaultParams refIsHalt s) ∧
      (fetchStage defaultParams refIsHalt s).ifde.pc = s.pc ∧
      (fetchStage defaultParams refIsHalt s).ifde.predNext = (fetchStage defaultParams refIsHalt s).pc ∧
      (fetchStage defaultParams refIsHalt s).pc = (predict s.pred s.pc).2) := by
  have hpc := cacheRead_pc defaultParams .ic s.pc 4 s
  have hpred := cacheRead_pred defaultParams .ic s.pc 4 s
  unfold fetchStage fetchOpen
  split_ifs with _ hcs
  · exact .inl rfl
  · exact .inl rfl
  rcases e : cacheRead defaultParams .ic s.pc 4 s with ⟨_ | k | ⟨d, i⟩, s1⟩ <;> rw [e] at hpc hpred
  · exact .inl hpc
  · exact .inl hpc
  · refine .inr ⟨by simpa using hcs, ⟨rfl, rfl, rfl, rfl⟩, hpc, rfl, ?_⟩
    rw [← hpc, ← hpred]
    rfl

/-- Under a control stall Fetch keeps `PC` and the flush request (R157). -/
theorem fetchStage_stalled {s : State} (h : s.controlStalled = true) :
    (fetchStage defaultParams refIsHalt s).pc = s.pc ∧
      (fetchStage defaultParams refIsHalt s).ifde.flush = s.ifde.flush := by
  unfold fetchStage fetchOpen
  rw [if_pos h]
  split_ifs <;> exact ⟨rfl, rfl⟩

/-- Up to Decode `PC` is written by the repair alone, which leaves a control stall and a flush request. -/
theorem beforeDecode_pc_cases (s : State) :
    (beforeDecode s).pc = s.pc ∨
    (s.deex.valid = true ∧ s.deex.kind = .control ∧ (beforeDecode s).controlStalled = true ∧
      (beforeDecode s).ifde.flush = true ∧
      ((beforeDecode s).pc = s.deex.pc + 4 * s.deex.offset ∨ (beforeDecode s).pc = s.deex.pc + 4)) := by
  have hpc : (afterMemory s).pc = s.pc := by simp [afterMemory]
  have hdeex : (afterMemory s).deex = (hazardUnit s).deex := by simp [afterMemory]
  obtain ⟨hvalid, hkind, haddr, hoffset, -⟩ := Prediction.hazardUnit_deex_control s
  rw [beforeDecode_eq]
  rcases Backing.unlessFatal_cases (executeStage defaultParams) (afterMemory s) with e | e <;> rw [e]
  · exact .inl hpc
  · rcases Invariant.executeStage_keeps_or_repairs defaultParams (afterMemory s) with ⟨hkeep, -⟩ | ⟨hv, hk, hrep⟩
    · exact .inl (hkeep.trans hpc)
    · rw [hdeex] at hv hk
      refine .inr ⟨hvalid ▸ hv, hkind ▸ hk, by simp [hrep], by simp [hrep], ?_⟩
      have hnext : (executeStage defaultParams (afterMemory s)).pc = actualNext (afterMemory s) := by
        rw [hrep, propagateExHalt_pc, repair_pc]
      rw [hnext, actualNext, branchTarget, fallThrough, hdeex, haddr, hoffset]
      split_ifs
      · exact .inl rfl
      · exact .inr rfl

theorem afterDecode_keeps {α : Type} (g : State → α) (h : ∀ d s, g (decodeStage d s) = g s) (s : State) :
    g (FrontEnd.afterDecode s) = g (beforeDecode s) :=
  unlessFatal_keeps g (h _) _

/-- Settles O26: after a repair Fetch is stalled; else it may deliver the word at the old `PC`. -/
theorem pcWriters : Obligations.PcWriters := by
  intro s t hstep hne
  have hr : s.status = .running := by
    by_contra hstop
    rw [FrontEnd.next_eq_refDecode hstep, cycleWith_stopped hstop] at hne
    exact hne rfl
  have hpred : (FrontEnd.afterDecode s).pred = t.pred := by
    rw [FrontEnd.next_eq_refDecode hstep, Prediction.cycleWith_pred hr, afterDecode_keeps State.pred (by simp)]
  obtain rfl := Host.Outcome.next.inj ((FrontEnd.step_eq_afterFetch hr).symm.trans hstep)
  have htpc := unlessFatal_keeps State.pc (f := cycleEnd defaultParams) (by simp) (FrontEnd.afterFetch s)
  have htifde := unlessFatal_keeps State.ifde (f := cycleEnd defaultParams) (by simp) (FrontEnd.afterFetch s)
  rw [IfdeReady, htifde, htpc, ← hpred]
  rw [htpc] at hne
  have hdpc := afterDecode_keeps State.pc (by simp) s
  have hdifde := afterDecode_keeps State.ifde (by simp) s
  have hdstall := afterDecode_keeps State.controlStalled (by simp) s
  rcases beforeDecode_pc_cases s with hkeep | ⟨hv, hk, hcs, hfl, hnext⟩
  · left
    rcases Backing.unlessFatal_cases (fetchStage defaultParams refIsHalt) (FrontEnd.afterDecode s) with e | e
    · rw [FrontEnd.afterFetch, e, hdpc] at hne
      exact absurd hkeep hne
    · rw [FrontEnd.afterFetch, e] at hne ⊢
      rcases fetchStage_pc_cases (FrontEnd.afterDecode s) with hsame | ⟨-, hready, haddr, hnext, hpc⟩
      · rw [hsame, hdpc] at hne
        exact absurd hkeep hne
      · rw [hdpc, hkeep] at haddr hpc
        exact ⟨hpc, haddr, hnext, hready⟩
  · right
    have hfetch : (FrontEnd.afterFetch s).pc = (beforeDecode s).pc ∧
        (FrontEnd.afterFetch s).ifde.flush = (beforeDecode s).ifde.flush := by
      rw [← hdpc, ← hdifde]
      exact FrontEnd.unlessFatal_preserves
        (P := fun u => u.pc = (FrontEnd.afterDecode s).pc ∧ u.ifde.flush = (FrontEnd.afterDecode s).ifde.flush)
        ⟨rfl, rfl⟩ fun _ => fetchStage_stalled (hdstall.trans hcs)
    obtain ⟨hpc, hflush⟩ := hfetch
    rw [hpc, hflush]
    exact ⟨hv, hk, hfl, hnext⟩

/-! ## The end of the run -/

/-- `STATUS` becomes `HALTED` only in a Writeback that finds `MEM_halted` (45_memory_writeback.md R234). -/
theorem not_halted_of_step {s t : State} (hr : s.status = .running) (hm : s.memHalted = false)
    (hstep : step s = .next t) : t.status ≠ .halted := by
  intro ht
  obtain rfl := Host.Outcome.next.inj ((FrontEnd.step_eq_afterFetch hr).symm.trans hstep)
  have hfetch : (FrontEnd.afterFetch s).status = .halted :=
    (FrontEnd.keepsOrFaults_cycleEnd _).unlessFatal.halted ht
  have hdecode : (FrontEnd.afterDecode s).status = .halted :=
    (FrontEnd.keepsOrFaults_fetchStage ..).unlessFatal.halted hfetch
  have hbefore : (beforeDecode s).status = .halted := by
    rcases Backing.unlessFatal_cases (decodeStage (refDecode s.ifde.word)) (beforeDecode s) with e | e
    · rwa [FrontEnd.afterDecode, e] at hdecode
    · rw [FrontEnd.afterDecode, e] at hdecode
      rcases FrontEnd.decodeStage_cases (refDecode s.ifde.word) (beforeDecode s) with
        e | ⟨-, x, e⟩ | ⟨-, -, -, -, e⟩ | ⟨-, -, e⟩ <;> rw [e] at hdecode
      · exact hdecode
      · exact hdecode
      · cases hdecode
      · exact hdecode
  rcases FrontEnd.writebackStage_halted ((FrontEnd.beforeDecode_keepsOrFaults s).halted hbefore) with h | h
  · rw [hazardUnit_status, hr] at h; cases h
  · rw [hazardUnit_memHalted, hm] at h; cases h

/-- Retiring the halt instruction writes no register and no flag (R293). -/
theorem retire_haltInstr {m : MemWb} (h : FrontEnd.HaltInMemWb m) (s : State) :
    retire m s = { s with retiredCount := s.retiredCount + 1 } := by
  obtain ⟨-, -, hwb⟩ := h
  simp [retire, writebackFlags, writebackReg, hwb, WbCtl.zero]

/-- With all four stages halted nothing but the hazard unit, Writeback and the end of the cycle acts. -/
theorem cycleWith_drained {d : Decoded} {s : State} (hr : s.status = .running) (h : FrontEnd.HaltInMemWb s.memwb)
    (hmem : s.memHalted = true) (hex : s.exHalted = true) (hde : s.deHalted = true) (hfe : s.feHalted = true)
    (hic : s.ic.queries = []) (hdc : s.dc.queries = []) :
    cycleWith defaultParams refIsHalt d s =
      { hazardUnit s with
        status := .halted, retiredCount := s.retiredCount + 1, cycleCount := s.cycleCount + 1 } := by
  obtain ⟨hv, hk, hwb⟩ := h
  have hretire : writebackStage (hazardUnit s) =
      { hazardUnit s with status := .halted, retiredCount := s.retiredCount + 1 } := by
    rw [writebackStage_retires ⟨hv, by rw [hk]; rfl⟩, retire_haltInstr ⟨hv, hk, hwb⟩]
    simp [writebackStop, hmem]
  have hbefore : cycleToExecute defaultParams s =
      { hazardUnit s with status := .halted, retiredCount := s.retiredCount + 1 } :=
    cycleToExecute_of rfl hretire (memoryStage_halted (by simpa using hmem)) rfl
      (executeStage_skip (.inl (by simpa using hex)))
  have hend := cycleEnd_idle (p := defaultParams)
    (s := { hazardUnit s with status := .halted, retiredCount := s.retiredCount + 1 }) rfl
    (by simpa using hic) (by simpa using hdc)
  rw [hazardUnit_cycleCount] at hend
  exact cycleWith_of hr hbefore rfl (decodeStage_gated (.inl (by simpa using hde))) rfl
    (fetchStage_gated (.inl (by simpa using hfe))) rfl hend

/-- Settles O27: with `MEM_halted` the halt cascade leaves no stage with work, and no query can be pending. -/
theorem haltEndsTheRun : Obligations.HaltEndsTheRun := by
  intro s hhalt hquery hr
  obtain ⟨-, hchain⟩ := FrontEnd.haltInv_iff.mp hhalt
  refine ⟨_, FrontEnd.step_eq_refDecode s, ?_⟩
  cases hm : s.memHalted with
  | false =>
    exact ⟨⟨fun h => absurd h (not_halted_of_step hr hm (FrontEnd.step_eq_refDecode s)), nofun⟩, nofun⟩
  | true =>
    obtain ⟨hex, hwb⟩ := hchain.mem hm
    obtain ⟨hde, hdc, -⟩ := hchain.ex hex
    obtain ⟨hfe, -⟩ := hchain.de hde
    obtain ⟨⟨-, hnoStall, -, -⟩, -⟩ := hchain.fe hfe
    obtain ⟨-, -, hicOwn, hdcOwn, -⟩ := hquery
    have hicq : s.ic.queries = [] := List.eq_nil_iff_forall_not_mem.mpr fun q hq => by
      rw [(hicOwn q hq).2.1] at hnoStall; cases hnoStall
    have hdcq : s.dc.queries = [] := List.eq_nil_iff_forall_not_mem.mpr fun q hq => by
      rw [(hdcOwn q hq).1] at hdc; cases hdc
    rw [cycleWith_drained hr hwb hm hex hde hfe hicq hdcq]
    simp [FlagsUnchanged, DataUntouched, hfe, hde, hex, hm, hdc, hicq, hdcq]

end Sys2Proof.Machine.Frame
end

section
/-!
PROOFS of O49 to O52: one source slot after the hazard unit, said once (`forwardSlot_cases`), and what the unit
writes (42_hazard_forwarding.md).
-/

namespace Sys2Proof.Machine.Hazard

/-! ## One source slot (R142 to R146) -/

/-- The instruction in `EXMEM` writes register `r` (R149). -/
def ExMemWrites (s : State) (r : Reg) : Prop :=
  s.exmem.valid = true ∧ isBubble s.exmem.kind = false ∧ s.exmem.wb.regWrite = true ∧ s.exmem.dst = r

/-- The instruction in `MEMWB` writes register `r` (R149). -/
def MemWbWrites (s : State) (r : Reg) : Prop :=
  s.memwb.valid = true ∧ isBubble s.memwb.kind = false ∧ s.memwb.wb.regWrite = true ∧ s.memwb.dst = r

theorem exMemProduces_iff {s : State} {r : Reg} (hr : r ≠ zeroReg) :
    exMemProduces s r = true ↔ ExMemWrites s r := by
  simp only [exMemProduces, ExMemWrites, Bool.and_eq_true, Bool.not_eq_true', bne_iff_ne, beq_iff_eq, ne_eq]
  constructor
  · rintro ⟨⟨⟨⟨hv, hk⟩, hw⟩, -⟩, hd⟩
    exact ⟨hv, hk, hw, hd⟩
  · rintro ⟨hv, hk, hw, hd⟩
    exact ⟨⟨⟨⟨hv, hk⟩, hw⟩, hd ▸ hr⟩, hd⟩

theorem memWbProduces_iff {s : State} {r : Reg} (hr : r ≠ zeroReg) :
    memWbProduces s r = true ↔ MemWbWrites s r := by
  simp only [memWbProduces, MemWbWrites, Bool.and_eq_true, Bool.not_eq_true', bne_iff_ne, beq_iff_eq, ne_eq]
  constructor
  · rintro ⟨⟨⟨⟨hv, hk⟩, hw⟩, -⟩, hd⟩
    exact ⟨hv, hk, hw, hd⟩
  · rintro ⟨hv, hk, hw, hd⟩
    exact ⟨⟨⟨⟨hv, hk⟩, hw⟩, hd ▸ hr⟩, hd⟩

/-- Everything that can happen to a slot: it depends on nothing, `EXMEM` writes its register and is asked first,
then `MEMWB`, or neither does. -/
theorem forwardSlot_cases (s : State) (needed : Bool) (r : Reg) (v : Word) :
    ((needed = false ∨ r = zeroReg) ∧ forwardSlot s needed r v = (false, v)) ∨
    (needed = true ∧ r ≠ zeroReg ∧ ExMemWrites s r ∧
      forwardSlot s needed r v = if s.exmem.mem.memRead then (true, v) else (false, s.exmem.aluResult)) ∨
    (needed = true ∧ r ≠ zeroReg ∧ ¬ExMemWrites s r ∧ MemWbWrites s r ∧
      forwardSlot s needed r v = (false, memWbValue s.memwb)) ∨
    (needed = true ∧ r ≠ zeroReg ∧ ¬ExMemWrites s r ∧ ¬MemWbWrites s r ∧
      forwardSlot s needed r v = (false, v)) := by
  by_cases hind : needed = false ∨ r = zeroReg
  · exact .inl ⟨hind, forwardSlot_independent hind v⟩
  obtain ⟨hn, hr⟩ := not_or.mp hind
  rw [Bool.not_eq_false] at hn
  right
  have hguard : (!needed || r == zeroReg) = false := by simp [hn, hr]
  unfold forwardSlot
  rw [hguard, ← exMemProduces_iff hr, ← memWbProduces_iff hr]
  cases exMemProduces s r with
  | true => exact .inl ⟨hn, hr, rfl, rfl⟩
  | false =>
    right
    cases memWbProduces s r with
    | true => exact .inl ⟨hn, hr, Bool.false_ne_true, rfl, rfl⟩
    | false => exact .inr ⟨hn, hr, Bool.false_ne_true, Bool.false_ne_true, rfl⟩

/-- A slot whose register `EXMEM` writes with its ALU result (R143). -/
theorem forwardSlot_exMem {s : State} {r : Reg} (hr : r ≠ zeroReg) (hw : ExMemWrites s r) (v : Word) :
    forwardSlot s true r v = if s.exmem.mem.memRead then (true, v) else (false, s.exmem.aluResult) := by
  rcases forwardSlot_cases s true r v with ⟨h | h, -⟩ | ⟨-, -, -, e⟩ | ⟨-, -, hno, -⟩ | ⟨-, -, hno, -⟩
  · cases h
  · exact absurd h hr
  · exact e
  · exact absurd hw hno
  · exact absurd hw hno

/-- A slot whose register `EXMEM` leaves and `MEMWB` writes (R145). -/
theorem forwardSlot_memWb {s : State} {r : Reg} (hr : r ≠ zeroReg) (hx : ¬ExMemWrites s r) (hw : MemWbWrites s r)
    (v : Word) : forwardSlot s true r v = (false, memWbValue s.memwb) := by
  rcases forwardSlot_cases s true r v with ⟨h | h, -⟩ | ⟨-, -, h, -⟩ | ⟨-, -, -, -, e⟩ | ⟨-, -, -, hno, -⟩
  · cases h
  · exact absurd h hr
  · exact absurd h hx
  · exact e
  · exact absurd hw hno

/-- A slot asks for a stall exactly when a load in `EXMEM` writes its register (R144). -/
theorem forwardSlot_stalls_iff (s : State) (needed : Bool) (r : Reg) (v : Word) :
    (forwardSlot s needed r v).1 = true ↔
      needed = true ∧ r ≠ zeroReg ∧ ExMemWrites s r ∧ s.exmem.mem.memRead = true := by
  rcases forwardSlot_cases s needed r v with ⟨h, e⟩ | ⟨hn, hr, hw, e⟩ | ⟨-, -, hno, -, e⟩ | ⟨-, -, hno, -, e⟩ <;>
    rw [e]
  · refine ⟨nofun, fun ⟨hn, hr, _⟩ => ?_⟩
    rcases h with h | h
    · rw [h] at hn; cases hn
    · exact absurd h hr
  · cases s.exmem.mem.memRead with
    | true => exact ⟨fun _ => ⟨hn, hr, hw, rfl⟩, fun _ => rfl⟩
    | false => exact ⟨nofun, fun h => absurd h.2.2.2 nofun⟩
  · exact ⟨nofun, fun ⟨_, _, hw, _⟩ => absurd hw hno⟩
  · exact ⟨nofun, fun ⟨_, _, hw, _⟩ => absurd hw hno⟩

/-! ## What the unit leaves in `DEEX` -/

section Live
variable {s : State} (hv : s.deex.valid = true) (hk : isBubble s.deex.kind = false)
include hv hk

theorem hazardUnit_valA : (hazardUnit s).deex.valA = (slotA s).2 := by
  rw [hazardUnit_live hv hk]
  unfold patchedDeEx
  split_ifs <;> rfl

theorem hazardUnit_valB : (hazardUnit s).deex.valB = (slotB s).2 := by
  rw [hazardUnit_live hv hk]
  unfold patchedDeEx
  split_ifs <;> rfl

theorem hazardUnit_dataStalled : (hazardUnit s).dataStalled = ((slotA s).1 || (slotB s).1) := by
  rw [hazardUnit_live hv hk]

end Live

theorem exMemUpdatesFlags_iff {s : State} :
    exMemUpdatesFlags s = true ↔
      s.exmem.valid = true ∧ isBubble s.exmem.kind = false ∧ s.exmem.wb.flagsUpdate = true := by
  simp only [exMemUpdatesFlags, Bool.and_eq_true, Bool.not_eq_true', and_assoc]

/-- Settles O49: the check of `EXMEM` comes first, and what is no load has its value there. -/
theorem forwardsFromExMem : Obligations.ForwardsFromExMem := by
  intro s hv hk hxv hxk hxw hdst hload
  have hwrites : ExMemWrites s s.exmem.dst := ⟨hxv, hxk, hxw, rfl⟩
  refine ⟨fun hneed hsrc => ?_, fun hneed hsrc => ?_⟩
  · rw [hazardUnit_valA hv hk, slotA, hneed, hsrc, forwardSlot_exMem hdst hwrites, hload]
    rfl
  · rw [hazardUnit_valB hv hk, slotB, hneed, hsrc, forwardSlot_exMem hdst hwrites, hload]
    rfl

/-- Settles O50: both slots hold what `forwardSlot_cases` says of a slot. -/
theorem forwardsFromMemWb : Obligations.ForwardsFromMemWb := by
  intro s hv hk
  rw [hazardUnit_valA hv hk, hazardUnit_valB hv hk, slotA, slotB]
  have slot : ∀ (needed : Bool) (r : Reg) (v : Word),
      (needed = false ∨ r = zeroReg → (forwardSlot s needed r v).2 = v) ∧
      (needed = true → r ≠ zeroReg → ExMemWrites s r →
        (forwardSlot s needed r v).2 = if s.exmem.mem.memRead then v else s.exmem.aluResult) ∧
      (¬ExMemWrites s r →
        ((needed = true ∧ r ≠ zeroReg ∧ MemWbWrites s r) →
          (forwardSlot s needed r v).2 = memWbValue s.memwb) ∧
        (¬(needed = true ∧ r ≠ zeroReg ∧ MemWbWrites s r) → (forwardSlot s needed r v).2 = v)) := by
    intro needed r v
    refine ⟨fun h => ?_, fun hn hr hw => ?_, fun hx => ⟨fun ⟨hn, hr, hw⟩ => ?_, fun hno => ?_⟩⟩
    · rw [forwardSlot_independent h]
    · rw [hn, forwardSlot_exMem hr hw]
      split_ifs <;> rfl
    · rw [hn, forwardSlot_memWb hr hx hw]
    · rcases forwardSlot_cases s needed r v with ⟨-, e⟩ | ⟨-, -, h, -⟩ | ⟨hn, hr, -, hw, -⟩ | ⟨-, -, -, -, e⟩
      · rw [e]
      · exact absurd h hx
      · exact absurd ⟨hn, hr, hw⟩ hno
      · rw [e]
  intro sl hsl
  rcases List.mem_pair.mp hsl with rfl | rfl
  · exact slot _ _ _
  · exact slot _ _ _

/-- Settles O51: the copy of the flags takes those of `EXMEM`, or is left alone. -/
theorem forwardsFlags : Obligations.ForwardsFlags := by
  intro s hv hk
  rw [hazardUnit_live hv hk, ← exMemUpdatesFlags_iff]
  refine ⟨fun h => ?_, fun h => ?_⟩
  · simp [patchedDeEx, h]
  · simp [patchedDeEx, h]

/-- Settles O52: with no instruction in `DEEX` the unit asks for nothing; with one, a stall is asked for by one of
the two slots. -/
theorem hazardUnitFrame : Obligations.HazardUnitFrame := by
  intro s
  refine ⟨fun h => ?_, ?_, ?_⟩
  · refine hazardUnit_idle fun hv => ?_
    rcases h with h | h
    · rw [hv] at h; cases h
    · exact h
  · unfold hazardUnit
    split_ifs
    · exact ⟨_, _, _, _, _, _, rfl⟩
    · unfold patchedDeEx
      split_ifs <;> exact ⟨_, _, _, _, _, _, rfl⟩
  · by_cases hlive : s.deex.valid = true ∧ isBubble s.deex.kind = false
    · obtain ⟨hv, hk⟩ := hlive
      rw [hazardUnit_dataStalled hv hk, Bool.or_eq_true, slotA, slotB, forwardSlot_stalls_iff, forwardSlot_stalls_iff]
      constructor
      · rintro (⟨hn, hr, ⟨hxv, hxk, hxw, hd⟩, hload⟩ | ⟨hn, hr, ⟨hxv, hxk, hxw, hd⟩, hload⟩)
        · exact ⟨hv, hk, hxv, hxk, hxw, hload, hd ▸ hr, .inl ⟨hn, hd.symm⟩⟩
        · exact ⟨hv, hk, hxv, hxk, hxw, hload, hd ▸ hr, .inr ⟨hn, hd.symm⟩⟩
      · rintro ⟨-, -, hxv, hxk, hxw, hload, hr, ⟨hn, hsrc⟩ | ⟨hn, hsrc⟩⟩
        · exact .inl ⟨hn, hsrc ▸ hr, ⟨hxv, hxk, hxw, hsrc.symm⟩, hload⟩
        · exact .inr ⟨hn, hsrc ▸ hr, ⟨hxv, hxk, hxw, hsrc.symm⟩, hload⟩
    · have hidle : hazardUnit s = { s with dataStalled := false } := by
        refine hazardUnit_idle fun hv => ?_
        by_contra hk
        exact hlive ⟨hv, by simpa using hk⟩
      rw [hidle]
      exact ⟨nofun, fun ⟨hv, hk, _⟩ => absurd ⟨hv, hk⟩ hlive⟩

end Sys2Proof.Machine.Hazard
end

section
/-!
PROOFS of O28 to O31 and O39: an instruction alone in the pipeline that makes no data access writes its ALU result
and its flags, if any, and nothing else (47_refdec_instructions.md sections 1, 2, 4 and 6).
-/

namespace Sys2Proof.Machine.Completion

/-! ## The run, by the control record -/

/-- A record that computes and makes no data access. -/
structure Computes (d : Decoded) : Prop where
  noBranch : d.kind ≠ .control
  noLoad : d.mem.memRead = false
  noStore : d.mem.memWrite = false
  noDatum : d.wb.memToReg = false

/-- The record writes `rd`, or writes nothing and `rd` is the zero register (30_encoding.md R104). -/
def WritesTo (d : Decoded) (rd : Reg) : Prop :=
  (d.wb.regWrite = true ∧ d.dst = rd) ∨ (d.wb.regWrite = false ∧ rd = zeroReg)

/-- The ALU result of a record issued in a state. -/
def resultOf (d : Decoded) (s : State) : Word := aluOf (deExOf d s)

/-- What four cycles of an instruction that only computes do. -/
theorem computes_alone {s : State} {i : Instr} (h : IssuesAlone s) (hc : Computes (recordOf i)) :
    ∃ t u, exec i s = .next t ∧ runCycles 3 t = .next u ∧ AloneFrame s u ∧ DataUntouched s u ∧
      (∀ r, readReg u r =
        if (recordOf i).wb.regWrite = true ∧ r = (recordOf i).dst ∧ (recordOf i).dst ≠ zeroReg then
          resultOf (recordOf i) s else readReg s r) ∧
      u.z = (if (recordOf i).wb.flagsUpdate then zeroFlag (resultOf (recordOf i) s) else s.z) ∧
      u.n = (if (recordOf i).wb.flagsUpdate then negFlag (resultOf (recordOf i) s) else s.n) := by
  obtain ⟨hbranch, hload, hstore, hdatum⟩ := hc
  have hqueries := h
  obtain ⟨-, -, -, -, -, ⟨-, hdq⟩, -⟩ := hqueries
  obtain ⟨t, u, hexec, hrun, hframe, hdc, hts, hmem, hregs, hz, hn⟩ :=
    runAlone h hbranch (aloneMemory_pass s hload hstore) hdq
  refine ⟨t, u, hexec, hrun, hframe, ⟨hmem, hdc, hts⟩, fun r => ?_, hz, hn⟩
  rw [hregs r, hdatum]
  rfl

theorem regWritten_of {d : Decoded} {s u : State} {rd : Reg} {v : Word} (hd : WritesTo d rd)
    (hregs : ∀ r, readReg u r = if d.wb.regWrite = true ∧ r = d.dst ∧ d.dst ≠ zeroReg then v else readReg s r) :
    RegWritten s u rd v := by
  intro r
  rw [hregs r]
  rcases hd with ⟨hw, rfl⟩ | ⟨hw, rfl⟩
  · simp only [hw, true_and]
  · simp [hw]

theorem zeroFlag_eq (v : Word) : zeroFlag v = decide (v = 0) := rfl

/-- An instruction that writes its result and no flag. -/
theorem completes_with_result {s : State} {i : Instr} {rd : Reg} {v : Word} (h : IssuesAlone s)
    (hc : Computes (recordOf i)) (hrd : WritesTo (recordOf i) rd) (hf : (recordOf i).wb.flagsUpdate = false)
    (hv : resultOf (recordOf i) s = v) :
    ∃ t u, exec i s = .next t ∧ runCycles 3 t = .next u ∧ AloneFrame s u ∧ DataUntouched s u ∧
      RegWritten s u rd v ∧ FlagsUnchanged s u := by
  obtain ⟨t, u, hexec, hrun, hframe, hdata, hregs, hz, hn⟩ := computes_alone h hc
  rw [hf] at hz hn
  rw [hv] at hregs
  exact ⟨t, u, hexec, hrun, hframe, hdata, regWritten_of hrd hregs, hz, hn⟩

/-- An instruction that writes its result and the flags of it. -/
theorem completes_with_flags {s : State} {i : Instr} {rd : Reg} {v : Word} (h : IssuesAlone s)
    (hc : Computes (recordOf i)) (hrd : WritesTo (recordOf i) rd) (hf : (recordOf i).wb.flagsUpdate = true)
    (hv : resultOf (recordOf i) s = v) :
    ∃ t u, exec i s = .next t ∧ runCycles 3 t = .next u ∧ AloneFrame s u ∧ DataUntouched s u ∧
      RegWritten s u rd v ∧ FlagsOf u v := by
  obtain ⟨t, u, hexec, hrun, hframe, hdata, hregs, hz, hn⟩ := computes_alone h hc
  rw [hf, hv] at hz hn
  rw [hv] at hregs
  exact ⟨t, u, hexec, hrun, hframe, hdata, regWritten_of hrd hregs, hz, hn⟩

/-! ## The records -/

theorem computes_regRecord (op : AluOp) (f : Bool) (rd rn rm : Reg) : Computes (regRecord op f rd rn rm) :=
  ⟨nofun, rfl, rfl, rfl⟩

theorem computes_immRecord (op : AluOp) (f : Bool) (rd rn : Reg) (imm : Word) :
    Computes (immRecord op f rd rn imm) :=
  ⟨nofun, rfl, rfl, rfl⟩

theorem computes_compareRecord {d : Decoded} (h : Computes d) : Computes (compareRecord d) :=
  ⟨h.noBranch, h.noLoad, h.noStore, h.noDatum⟩

theorem resultOf_compareRecord {d : Decoded} (hop : d.ex.aluOp = .sub) (s : State) :
    resultOf (compareRecord d) s = resultOf d s := by
  show alu .cmp _ _ = alu d.ex.aluOp _ _
  rw [hop]
  rfl

/-! ## The values (44_execute.md R184 to R191) -/

theorem alu_add_eq (a b : Word) : alu .add a b = BitVec.ofNat 64 (a.toNat + b.toNat) :=
  BitVec.eq_of_toNat_eq (by rw [(Execution.aluResults a b).1, BitVec.toNat_ofNat])

theorem alu_sub_eq (a b : Word) : alu .sub a b = BitVec.ofInt 64 ((a.toNat : Int) - b.toNat) := by
  apply BitVec.eq_of_toNat_eq
  have h : ((alu .sub a b).toNat : Int) = ((a.toNat : Int) - b.toNat) % 2 ^ 64 :=
    Execution.toNat_sub_eq_emod a b
  rw [BitVec.toNat_ofInt]
  omega

theorem alu_mul_eq (a b : Word) : alu .mul a b = BitVec.ofNat 64 (a.toNat * b.toNat) := by
  apply BitVec.eq_of_toNat_eq
  rw [BitVec.toNat_ofNat]
  exact BitVec.toNat_mul a b

theorem toNat_zext {n : Nat} (h : n ≤ 64) (v : BitVec n) : (zext v).toNat = v.toNat :=
  BitVec.toNat_setWidth_of_le h

theorem alu_shl_eq (a : Word) (k : BitVec 6) :
    alu .shl a (zext k) = BitVec.ofNat 64 (a.toNat * 2 ^ k.toNat) := by
  apply BitVec.eq_of_toNat_eq
  show (a <<< ((zext k).toNat % 64)).toNat = _
  rw [toNat_zext (by decide), Nat.mod_eq_of_lt k.isLt, BitVec.toNat_shiftLeft, Nat.shiftLeft_eq, BitVec.toNat_ofNat]

theorem alu_shr_eq (a : Word) (k : BitVec 6) :
    alu .shr a (zext k) = BitVec.ofNat 64 (a.toNat / 2 ^ k.toNat) := by
  apply BitVec.eq_of_toNat_eq
  show (a >>> ((zext k).toNat % 64)).toNat = _
  rw [toNat_zext (by decide), Nat.mod_eq_of_lt k.isLt, BitVec.toNat_ushiftRight, Nat.shiftRight_eq_div_pow,
    BitVec.toNat_ofNat, Nat.mod_eq_of_lt (lt_of_le_of_lt (Nat.div_le_self _ _) a.isLt)]

/-- The value `MOVZ` puts together in the decoder is the shifted immediate (R283). -/
theorem alu_or_zero_eq (imm : BitVec 16) (k : Nat) :
    alu .or 0 (zext imm <<< k) = BitVec.ofNat 64 (imm.toNat * 2 ^ k) := by
  apply BitVec.eq_of_toNat_eq
  show ((0#64) ||| zext imm <<< k).toNat = _
  rw [BitVec.zero_or, BitVec.toNat_shiftLeft, Nat.shiftLeft_eq, toNat_zext (by decide), BitVec.toNat_ofNat]

/-! ## The instructions -/

/-- Settles O28: the six are register records, each with its operation. -/
theorem registerAluCompletes : Obligations.RegisterAluCompletes := by
  intro s rd rn rm h iv hiv
  have run : ∀ {i : Instr} {op : AluOp} {v : Word}, recordOf i = regRecord op false rd rn rm →
      alu op (readReg s rn) (readReg s rm) = v → ∃ t u, exec i s = .next t ∧ runCycles 3 t = .next u ∧
        AloneFrame s u ∧ DataUntouched s u ∧ RegWritten s u rd v ∧ FlagsUnchanged s u := fun hrec hv =>
    completes_with_result h (hrec ▸ computes_regRecord ..) (hrec ▸ .inl ⟨rfl, rfl⟩) (hrec ▸ rfl) (hrec ▸ hv)
  simp only [List.mem_cons, List.not_mem_nil, or_false] at hiv
  rcases hiv with rfl | rfl | rfl | rfl | rfl | rfl
  · exact run (op := .add) rfl (alu_add_eq ..)
  · exact run (op := .sub) rfl (alu_sub_eq ..)
  · exact run (op := .and) rfl rfl
  · exact run (op := .or) rfl rfl
  · exact run (op := .xor) rfl rfl
  · exact run (op := .mul) rfl (alu_mul_eq ..)

/-- Settles O29: as O28; `CMP` is `SUBS` with the result dropped. -/
theorem registerAluFlagsCompletes : Obligations.RegisterAluFlagsCompletes := by
  intro s rd rn rm h iv hiv
  have run : ∀ {i : Instr} {op : AluOp} {v : Word}, recordOf i = regRecord op true rd rn rm →
      alu op (readReg s rn) (readReg s rm) = v → ∃ t u, exec i s = .next t ∧ runCycles 3 t = .next u ∧
        AloneFrame s u ∧ DataUntouched s u ∧ RegWritten s u rd v ∧ FlagsOf u v := fun hrec hv =>
    completes_with_flags h (hrec ▸ computes_regRecord ..) (hrec ▸ .inl ⟨rfl, rfl⟩) (hrec ▸ rfl) (hrec ▸ hv)
  simp only [List.mem_cons, List.not_mem_nil, or_false] at hiv
  rcases hiv with rfl | rfl | rfl
  · exact run (op := .add) rfl (alu_add_eq ..)
  · by_cases hrd : rd = zeroReg
    · have hrec : recordOf (.subs rd rn rm) = compareRecord (regRecord .sub true rd rn rm) := if_pos hrd
      refine completes_with_flags h ?_ ?_ ?_ ?_ <;> rw [hrec]
      · exact computes_compareRecord (computes_regRecord ..)
      · exact .inr ⟨rfl, hrd⟩
      · rfl
      · exact (resultOf_compareRecord rfl s).trans (alu_sub_eq ..)
    · exact run (op := .sub) (if_neg hrd) (alu_sub_eq ..)
  · exact run (op := .and) rfl rfl

/-- Settles O30: the five are immediate records, each with its operation and its immediate. -/
theorem immediateAluCompletes : Obligations.ImmediateAluCompletes := by
  intro s rd rn imm12 shift hw imm16 h iv hiv
  have run : ∀ {i : Instr} {op : AluOp} {r : Reg} {imm v : Word}, recordOf i = immRecord op false rd r imm →
      alu op (readReg s r) imm = v → ∃ t u, exec i s = .next t ∧ runCycles 3 t = .next u ∧
        AloneFrame s u ∧ DataUntouched s u ∧ RegWritten s u rd v ∧ FlagsUnchanged s u := fun hrec hv =>
    completes_with_result h (hrec ▸ computes_immRecord ..) (hrec ▸ .inl ⟨rfl, rfl⟩) (hrec ▸ rfl) (hrec ▸ hv)
  have himm : (zext imm12).toNat = imm12.toNat := toNat_zext (by decide) imm12
  simp only [List.mem_cons, List.not_mem_nil, or_false] at hiv
  rcases hiv with rfl | rfl | rfl | rfl | rfl
  · exact run (op := .add) rfl (himm ▸ alu_add_eq ..)
  · exact run (op := .sub) rfl (himm ▸ alu_sub_eq ..)
  · exact run (op := .shl) rfl (alu_shl_eq ..)
  · exact run (op := .shr) rfl (alu_shr_eq ..)
  · exact run (op := .or) rfl (readReg_zeroReg s ▸ alu_or_zero_eq ..)

/-- Settles O31: as O29, with an immediate. -/
theorem immediateAluFlagsCompletes : Obligations.ImmediateAluFlagsCompletes := by
  intro s rd rn imm12 h iv hiv
  have run : ∀ {i : Instr} {op : AluOp} {v : Word}, recordOf i = immRecord op true rd rn (zext imm12) →
      alu op (readReg s rn) (zext imm12) = v → ∃ t u, exec i s = .next t ∧ runCycles 3 t = .next u ∧
        AloneFrame s u ∧ DataUntouched s u ∧ RegWritten s u rd v ∧ FlagsOf u v := fun hrec hv =>
    completes_with_flags h (hrec ▸ computes_immRecord ..) (hrec ▸ .inl ⟨rfl, rfl⟩) (hrec ▸ rfl) (hrec ▸ hv)
  have himm : (zext imm12).toNat = imm12.toNat := toNat_zext (by decide) imm12
  have hsub : alu .sub (readReg s rn) (zext imm12) = BitVec.ofInt 64 (((readReg s rn).toNat : Int) - imm12.toNat) :=
    himm ▸ alu_sub_eq ..
  simp only [List.mem_cons, List.not_mem_nil, or_false] at hiv
  rcases hiv with rfl | rfl
  · exact run (op := .add) rfl (himm ▸ alu_add_eq ..)
  · by_cases hrd : rd = zeroReg
    · have hrec : recordOf (.subis rd rn imm12) = compareRecord (immRecord .sub true rd rn (zext imm12)) := if_pos hrd
      refine completes_with_flags h ?_ ?_ ?_ ?_ <;> rw [hrec]
      · exact computes_compareRecord (computes_immRecord ..)
      · exact .inr ⟨rfl, hrd⟩
      · rfl
      · exact (resultOf_compareRecord rfl s).trans hsub
    · exact run (op := .sub) (if_neg hrd) hsub

/-- Settles O39: the record of `NOP` writes nothing. -/
theorem nopCompletes : Obligations.NopCompletes := by
  intro s h
  obtain ⟨t, u, hexec, hrun, hframe, hdata, hregs, hz, hn⟩ :=
    computes_alone (i := .nop) h ⟨nofun, rfl, rfl, rfl⟩
  exact ⟨t, u, hexec, hrun, hframe, hdata, fun r => (hregs r).trans (if_neg fun hw => nomatch hw.1), hz, hn⟩

end Sys2Proof.Machine.Completion
end

section
/-!
PROOFS of O32 and O33: a load or store alone in the pipeline whose access hits (47_refdec_instructions.md section 3).
-/

namespace Sys2Proof.Machine.Completion

/-! ## Addresses in their block (40_cache.md R110) -/

theorem tagBase_blockNumber_eq (p : Params) (a : Word) : tagBase p (blockNumber p a) = blockBase p a := by
  have h : a.toNat / p.block * p.block = a.toNat - a.toNat % p.block := by
    have := Nat.div_add_mod' a.toNat p.block
    omega
  rw [tagBase, blockNumber, h, blockBase]

theorem blockBase_add_offset (p : Params) (a : Word) : blockBase p a + BitVec.ofNat 64 (blockOffset p a) = a := by
  rw [blockBase, blockOffset, ← BitVec.ofNat_add, Nat.sub_add_cancel (Nat.mod_le _ _), BitVec.ofNat_toNat,
    BitVec.setWidth_eq]

/-- An access inside a line that holds what memory holds of its block reads memory's bytes (R114). -/
theorem lineData_eq_memBytes {p : Params} {a : Word} {n : Nat} {l : Line} {m : Memory}
    (hx : crossesBlock p a n = false) (hl : l.bytes = memBytes m (blockBase p a) p.block) :
    lineData l (blockOffset p a) n = BitVec.ofNat 64 (bytesValue (memBytes m a n)) := by
  rw [lineData, hl, FrontEnd.memBytes_drop_take _ _ (Backing.crossesBlock_eq_false.mp hx), blockBase_add_offset]

/-- The line that a hit finds holds what memory holds of the block (20_memory.md R75). -/
theorem hit_bytes {s : State} {a : Word} {n i : Nat} {l : Line} (hw : WriteThrough s) (h : DataHits s a n i l) :
    tableGet s.dc.lines i = some l ∧ l.tag = blockNumber defaultParams a ∧
      l.bytes = memBytes s.mem (blockBase defaultParams a) defaultParams.block := by
  obtain ⟨-, hi, ht⟩ := cacheLookup_some h.2
  refine ⟨hi, ht, ?_⟩
  rw [hw i l hi, ht, tagBase_blockNumber_eq]

/-! ## Loads -/

theorem load_alone {s : State} {i : Instr} {w : Width} {rt rn : Reg} {simm9 : BitVec 9} {j : Nat} {l : Line}
    (h : IssuesAlone s) (hwt : WriteThrough s) (hrec : recordOf i = loadRecord w rt rn simm9)
    (hh : DataHits s (effAddr s rn simm9) (widthBytes w) j l) :
    ∃ t u, exec i s = .next t ∧ runCycles 3 t = .next u ∧ AloneFrame s u ∧
      RegWritten s u rt (BitVec.ofNat 64 (bytesValue (memBytes s.mem (effAddr s rn simm9) (widthBytes w)))) ∧
      FlagsUnchanged s u ∧ u.mem = s.mem ∧ LineTouched s u j l l.bytes := by
  have hdq : s.dc.queries = [] := by
    obtain ⟨-, -, -, -, -, ⟨-, hdq⟩, -⟩ := h
    exact hdq
  obtain ⟨-, -, hbytes⟩ := hit_bytes hwt hh
  have hmem := aloneMemory_load (d := loadRecord w rt rn simm9) rfl rfl hdq hh
  obtain ⟨t, u, hexec, hrun, hframe, hdc, hts, hm, hregs, hz, hn⟩ :=
    runAlone (i := i) h (by rw [hrec]; exact nofun) (by rw [hrec]; exact hmem) (by exact hdq)
  rw [hrec] at hregs hz hn
  refine ⟨t, u, hexec, hrun, hframe, regWritten_of (d := loadRecord w rt rn simm9) (.inl ⟨rfl, rfl⟩) fun r => ?_,
    ⟨hz, hn⟩, hm, hts, by rw [hdc]; exact hdq, fun k => ?_⟩
  · rw [hregs r, if_pos (show (loadRecord w rt rn simm9).wb.memToReg = true from rfl)]
    exact if_congr Iff.rfl (lineData_eq_memBytes hh.1 hbytes) rfl
  · rw [hdc]
    exact tableGet_put ..

/-- Settles O32: the four are load records, each with its width. -/
theorem loadsComplete : Obligations.LoadsComplete := by
  intro s rt rn simm9 j l h hwt iw hiw hh
  simp only [List.mem_cons, List.not_mem_nil, or_false] at hiw
  rcases hiw with rfl | rfl | rfl | rfl
  · exact load_alone (w := .b8) h hwt rfl hh
  · exact load_alone (w := .b4) h hwt rfl hh
  · exact load_alone (w := .b2) h hwt rfl hh
  · exact load_alone (w := .b1) h hwt rfl hh

/-! ## Stores -/

/-- A block number of an address is one of the address space. -/
theorem blockNumber_bound (a : Word) : (blockNumber defaultParams a + 1) * 32 ≤ 2 ^ 64 := by
  show (a.toNat / 32 + 1) * 32 ≤ 2 ^ 64
  omega

theorem store_alone {s : State} {i : Instr} {w : Width} {rt rn : Reg} {simm9 : BitVec 9} {j : Nat} {l : Line}
    (h : IssuesAlone s) (hwt : WriteThrough s) (hrec : recordOf i = storeRecord w rt rn simm9)
    (hh : DataHits s (effAddr s rn simm9) (widthBytes w) j l) :
    ∃ t u, exec i s = .next t ∧ runCycles 3 t = .next u ∧ AloneFrame s u ∧
      RegsUnchanged s u ∧ FlagsUnchanged s u ∧
      (∀ a, memRead u.mem a =
        if (a - effAddr s rn simm9).toNat < widthBytes w then
          (readReg s rt).extractLsb' (8 * (a - effAddr s rn simm9).toNat) 8
        else memRead s.mem a) ∧
      LineTouched s u j l
        (memBytes u.mem (blockBase defaultParams (effAddr s rn simm9)) defaultParams.block) := by
  have hdq : s.dc.queries = [] := by
    obtain ⟨-, -, -, -, -, ⟨-, hdq⟩, -⟩ := h
    exact hdq
  obtain ⟨-, htag, hbytes⟩ := hit_bytes hwt hh
  have hmem := aloneMemory_store (d := storeRecord w rt rn simm9) rfl rfl rfl hdq hh rfl
  obtain ⟨t, u, hexec, hrun, hframe, hdc, hts, hm, hregs, hz, hn⟩ :=
    runAlone (i := i) h (by rw [hrec]; exact nofun) (by rw [hrec]; exact hmem) (by exact hdq)
  rw [hrec] at hregs hz hn
  obtain ⟨e, he⟩ : ∃ e : ExMem, e = exMemOf { s with deex := deExOf (storeRecord w rt rn simm9) s } := ⟨_, rfl⟩
  have hx : crossesBlock defaultParams e.aluResult (widthBytes e.mem.width) = false := by rw [he]; exact hh.1
  have hline : l.bytes = memBytes s.mem (tagBase defaultParams l.tag) 32 := by
    rw [htag, tagBase_blockNumber_eq]
    exact hbytes
  have hum : u.mem = syncBlock defaultParams (Backing.storedInto e l (s.ts + 1)) s.mem := by rw [he]; exact hm
  have hwhole : (Backing.storedInto e l (s.ts + 1)).bytes =
      memBytes u.mem (blockBase defaultParams (effAddr s rn simm9)) defaultParams.block := by
    rw [hum, ← tagBase_blockNumber_eq, ← htag]
    refine Backing.bytes_eq_memBytes_syncBlock _ ?_ (Backing.storedInto_length _ ?_ hx)
    · show (l.tag + 1) * 32 ≤ 2 ^ 64
      rw [htag]
      exact blockNumber_bound _
    · rw [hline, Backing.memBytes_length]
  refine ⟨t, u, hexec, hrun, hframe, fun r => (hregs r).trans (if_neg fun hw => nomatch hw.1), ⟨hz, hn⟩,
    fun a => ?_, hts, by rw [hdc]; exact hdq, fun k => ?_⟩
  · have hread := Backing.memRead_syncBlock_storedInto (m := s.mem) (s.ts + 1) hx (by rw [he]; exact htag) hline a
    rw [← hum, he] at hread
    exact hread
  · rw [hdc, ← hwhole, he]
    show tableGet (tablePut (tablePut s.dc.lines j _) j _) k = _
    rw [tableGet_put, tableGet_put]
    split_ifs <;> rfl

/-- Settles O33: the four are store records, each with its width. -/
theorem storesComplete : Obligations.StoresComplete := by
  intro s rt rn simm9 j l h hwt iw hiw hh
  simp only [List.mem_cons, List.not_mem_nil, or_false] at hiw
  rcases hiw with rfl | rfl | rfl | rfl
  · exact store_alone (w := .b8) h hwt rfl hh
  · exact store_alone (w := .b4) h hwt rfl hh
  · exact store_alone (w := .b2) h hwt rfl hh
  · exact store_alone (w := .b1) h hwt rfl hh

end Sys2Proof.Machine.Completion
end

section
/-!
PROOFS of O57 to O59: a miss of a cache counted down to its fill, a write read back, and the line a fill takes, for
every legal geometry (40_cache.md R111 to R120).
-/

namespace Sys2Proof.Machine.Timed

/-! ## What a legal geometry gives (00_scope.md R5) -/

theorem block_mod_four {p : Params} (h : p.legal) : p.block % 4 = 0 := by
  obtain ⟨⟨k, hk, -, hb⟩, -⟩ := h
  obtain ⟨j, rfl⟩ := Nat.exists_eq_add_of_le hk
  rw [hb, pow_add]
  omega

theorem block_pos {p : Params} (h : p.legal) : 0 < p.block := by
  obtain ⟨⟨k, -, -, hb⟩, -⟩ := h
  rw [hb]
  exact Nat.two_pow_pos k

theorem waysOf_pos {p : Params} (h : p.legal) (c : CacheId) : 0 < waysOf p c := by
  obtain ⟨-, -, -, hi, hd, -⟩ := h
  cases c
  · exact hi
  · exact hd

/-- The block of an address ends in the address space (20_memory.md R61). -/
theorem block_end_le {p : Params} (h : p.legal) (a : Word) :
    blockNumber p a * p.block + p.block ≤ 2 ^ 64 := by
  have hpos := block_pos h
  obtain ⟨⟨k, -, hk, hb⟩, -⟩ := h
  have hdvd : p.block ∣ 2 ^ 64 := hb ▸ pow_dvd_pow 2 hk
  obtain ⟨q, hq⟩ := hdvd
  have hlt : blockNumber p a < q := Nat.div_lt_of_lt_mul (hq ▸ a.isLt)
  calc blockNumber p a * p.block + p.block = p.block * (blockNumber p a + 1) := by ring
    _ ≤ p.block * q := Nat.mul_le_mul_left _ hlt
    _ = 2 ^ 64 := hq.symm

theorem toNat_blockBase (p : Params) (a : Word) : (blockBase p a).toNat = blockNumber p a * p.block := by
  have hdiv := Nat.div_add_mod' a.toNat p.block
  have hlt := a.isLt
  rw [blockBase, blockNumber, BitVec.toNat_ofNat]
  omega

theorem blockNumber_blockBase {p : Params} (h : p.legal) (a : Word) :
    blockNumber p (blockBase p a) = blockNumber p a := by
  rw [blockNumber, toNat_blockBase, Nat.mul_div_cancel _ (block_pos h)]

/-! ## The way a fill takes (R119) -/

/-- The way with the smallest of the stamps `f`, the lowest among equals: `victimWay` with the stamps as a function
(`victimWay_eq_bestWay`). -/
def bestWay (f : Nat → Nat) (n : Nat) : Nat :=
  (List.range n).foldl (fun best w => if f w < f best then w else best) 0

theorem victimWay_eq_bestWay (p : Params) (c : CacheId) (a : Word) (s : State) :
    victimWay p c a s = bestWay (wayStamp p c a s) (waysOf p c) := rfl

theorem bestWay_succ (f : Nat → Nat) (n : Nat) :
    bestWay f (n + 1) = if f n < f (bestWay f n) then n else bestWay f n := by
  rw [bestWay, List.range_succ, List.foldl_append]
  rfl

theorem bestWay_spec (f : Nat → Nat) {n : Nat} (hn : 0 < n) :
    bestWay f n < n ∧ ∀ w, w < n → f (bestWay f n) ≤ f w ∧ (f w = f (bestWay f n) → bestWay f n ≤ w) := by
  induction n, hn using Nat.le_induction with
  | base =>
    refine ⟨by simp [bestWay], fun w hw => ?_⟩
    obtain rfl : w = 0 := by omega
    simp [bestWay]
  | succ n hn ih =>
    obtain ⟨hlt, hmin⟩ := ih
    rw [bestWay_succ]
    by_cases hnew : f n < f (bestWay f n)
    · rw [if_pos hnew]
      refine ⟨by omega, fun w hw => ?_⟩
      rcases Nat.lt_succ_iff_lt_or_eq.mp hw with hold | rfl
      · have := (hmin w hold).1
        omega
      · exact ⟨le_rfl, fun _ => le_rfl⟩
    · rw [if_neg hnew]
      refine ⟨by omega, fun w hw => ?_⟩
      rcases Nat.lt_succ_iff_lt_or_eq.mp hw with hold | rfl
      · exact hmin w hold
      · exact ⟨by omega, fun _ => by omega⟩

/-- Settles O59: the victim is `bestWay_spec` on the stamps of the set, and the fill is one put in the table of
lines. -/
theorem fillEvictsOldest : Obligations.FillEvictsOldest := by
  intro p c a s h
  refine ⟨bestWay_spec (wayStamp p c a s) (waysOf_pos h c),
    tablePut (getCache c s).lines (lineIndex p c a (victimWay p c a s))
      { tag := blockNumber p a, stamp := s.ts + 1, bytes := fillBytes p a s.mem }, ?_, fun i => ?_⟩
  · cases c <;> rfl
  · rw [tableGet_put, Backing.fillBytes_eq_memBytes p (block_mod_four h)]

/-! ## A miss to its fill (R113, R115, R118) -/

/-- After a fill for a block that was in no line the lookup finds the filled line, in any geometry (R119). -/
theorem cacheLookup_cacheFill {p : Params} {c : CacheId} {a b : Word} {s : State} (hw : 0 < waysOf p c)
    (hb : blockNumber p b = blockNumber p a) (hnone : cacheLookup p c a s = none) :
    ∃ j, cacheLookup p c a (cacheFill p c b s) =
      some (j, { tag := blockNumber p b, stamp := s.ts + 1, bytes := fillBytes p b s.mem }) := by
  have hindex : ∀ w, lineIndex p c b w = lineIndex p c a w := fun w => by simp only [lineIndex, setIndex, hb]
  have hlines : ∀ i, tableGet (getCache c (cacheFill p c b s)).lines i =
      if i = lineIndex p c a (victimWay p c b s) then
        some { tag := blockNumber p b, stamp := s.ts + 1, bytes := fillBytes p b s.mem }
      else tableGet (getCache c s).lines i := fun i => by
    rw [← hindex]
    cases c <;> exact tableGet_put ..
  cases hfound : cacheLookup p c a (cacheFill p c b s) with
  | none =>
    exact absurd hb (cacheLookup_none.mp hfound _ (victimWay_lt p c b s hw) _ ((hlines _).trans (if_pos rfl)))
  | some r =>
    obtain ⟨i, l⟩ := r
    obtain ⟨⟨w, hlt, rfl⟩, hget, htag⟩ := cacheLookup_some hfound
    rw [hlines] at hget
    split at hget
    · exact ⟨_, by rw [← Option.some.inj hget]⟩
    · exact absurd htag (cacheLookup_none.mp hnone w hlt l hget)

@[simp] theorem getCache_setQueries (c : CacheId) (q : List Query) (s : State) :
    getCache c (setQueries c q s) = { getCache c s with queries := q } := by cases c <;> rfl

theorem setQueries_setQueries (c : CacheId) (q q' : List Query) (s : State) :
    setQueries c q' (setQueries c q s) = setQueries c q' s := by cases c <;> rfl

theorem cacheFill_setQueries (p : Params) (c : CacheId) (b : Word) (q q' : List Query) (s : State) :
    setQueries c q' (cacheFill p c b (setQueries c q s)) = setQueries c q' (cacheFill p c b s) := by
  cases c <;> rfl

/-- `k` ticks of a new query, not the last of its ten (R118). -/
theorem iterate_cacheTick (p : Params) (c : CacheId) (b : Word) (s : State) {k : Nat} (hk : k < 10) :
    (cacheTick p c)^[k] (setQueries c [{ base := b, rem := 10 }] s) =
      setQueries c [{ base := b, rem := 10 - k }] s := by
  induction k with
  | zero => rfl
  | succ k ih =>
    rw [Function.iterate_succ_apply', ih (by omega), cacheTick_one (b := b) (k := 8 - k)
      (by rw [getCache_setQueries]; simp only [List.cons.injEq, Query.mk.injEq, and_true, true_and]; omega),
      setQueries_setQueries, show 8 - k + 1 = 10 - (k + 1) by omega]

theorem iterate_cacheTick_ten (p : Params) (c : CacheId) (b : Word) (s : State) :
    (cacheTick p c)^[10] (setQueries c [{ base := b, rem := 10 }] s) = setQueries c [] (cacheFill p c b s) := by
  rw [Function.iterate_succ_apply', iterate_cacheTick p c b s (by omega), cacheTick_last (b := b)
    (by rw [getCache_setQueries]), cacheFill_setQueries]

/-- Settles O57: the query is opened by the first `Read`, counted down by `iterate_cacheTick`, and its fill leaves a
line that holds memory's bytes of the block. -/
theorem missCountsDown : Obligations.MissCountsDown := by
  intro p c a n s h hx hq hnone
  have hfirst : cacheRead p c a n s =
      (.waiting 10, setQueries c [{ base := blockBase p a, rem := 10 }] s) := by
    rw [cacheRead_miss hx (by rw [pendingQuery, hq]; rfl) hnone, hq]
    rfl
  rw [hfirst]
  refine ⟨rfl, fun k hk => ?_, ?_⟩
  · rw [iterate_cacheTick p c _ s hk, cacheRead_pending (q := { base := blockBase p a, rem := 10 - k }) hx
      (by rw [pendingQuery, getCache_setQueries]; simp)]
  · obtain ⟨j, hj⟩ := cacheLookup_cacheFill (waysOf_pos h c) (blockNumber_blockBase h a) hnone
    refine ⟨j, ?_⟩
    rw [iterate_cacheTick_ten, cacheRead_hit hx (by rw [pendingQuery, getCache_setQueries]; rfl)
      ((cacheLookup_congr (by rw [getCache_setQueries])).trans hj),
      Completion.lineData_eq_memBytes hx (Backing.fillBytes_eq_memBytes p (block_mod_four h) _ _)]

/-! ## A write and the read after it (R116, R120) -/

/-- The low bytes of a word, read as a number (20_memory.md R63). -/
theorem bytesValue_append (xs ys : List Byte) :
    bytesValue (xs ++ ys) = bytesValue xs + 256 ^ xs.length * bytesValue ys := by
  induction xs with
  | nil => simp [bytesValue]
  | cons x xs ih =>
    rw [List.cons_append, bytesValue, ih, bytesValue, List.length_cons, pow_succ]
    ring

theorem bytesValue_valueBytes (n : Nat) (v : Word) : bytesValue (valueBytes n v) = v.toNat % 2 ^ (8 * n) := by
  induction n with
  | zero => simp [valueBytes, bytesValue, Nat.mod_one]
  | succ n ih =>
    have hsplit : valueBytes (n + 1) v = valueBytes n v ++ [v.extractLsb' (8 * n) 8] := by
      simp [valueBytes, List.range_succ]
    have hbyte : bytesValue [v.extractLsb' (8 * n) 8] = v.toNat / 2 ^ (8 * n) % 2 ^ 8 := by
      simp [bytesValue, Nat.shiftRight_eq_div_pow]
    rw [hsplit, bytesValue_append, ih, hbyte, Backing.valueBytes_length, Nat.mul_succ, pow_add, Nat.mod_mul,
      show (256 : Nat) = 2 ^ 8 by rfl, ← pow_mul]

/-- The written bytes of a patched line are the value's (R116). -/
theorem lineData_patchLine {l : Line} {off n : Nat} (v : Word) (h : off + n ≤ l.bytes.length) :
    lineData (patchLine l off n v) off n = BitVec.ofNat 64 (v.toNat % 2 ^ (8 * n)) := by
  have hbytes : ((patchLine l off n v).bytes.drop off).take n = valueBytes n v := by
    apply List.ext_getElem?
    intro k
    by_cases hk : k < n
    · rw [List.getElem?_take_of_lt hk, List.getElem?_drop, Backing.patchLine_getElem? v h, if_pos (by omega),
        Backing.valueBytes_getElem? v hk, Nat.add_sub_cancel_left]
    · rw [List.getElem?_eq_none (by rw [List.length_take]; omega),
        List.getElem?_eq_none (by rw [Backing.valueBytes_length]; omega)]
  rw [lineData, hbytes, bytesValue_valueBytes]

/-- The first way found stays the first when its line takes new content for the same block (R111). -/
theorem cacheLookup_of_put {p : Params} {c : CacheId} {a : Word} {s t : State} {j : Nat} {l l' : Line}
    (h : cacheLookup p c a s = some (j, l)) (htag : l'.tag = l.tag)
    (hput : ∀ i, tableGet (getCache c t).lines i = if i = j then some l' else tableGet (getCache c s).lines i) :
    cacheLookup p c a t = some (j, l') := by
  obtain ⟨-, -, hl⟩ := cacheLookup_some h
  unfold cacheLookup at h ⊢
  rw [List.findSome?_eq_some_iff] at h ⊢
  obtain ⟨before, w, after, hways, hfound, hbefore⟩ := h
  refine ⟨before, w, after, hways, ?_, fun x hx => ?_⟩
  · split at hfound
    · split at hfound
      · cases hfound
        rw [hput, if_pos rfl]
        simp only [htag, hl, if_true]
      · cases hfound
    · cases hfound
  · have hxw : lineIndex p c a x ≠ j := by
      rintro rfl
      have := hbefore x hx
      obtain ⟨-, hj, -⟩ := cacheLookup_some (p := p) (c := c) (a := a) (s := s) (i := lineIndex p c a x) (l := l)
        (by unfold cacheLookup; rw [List.findSome?_eq_some_iff]; exact ⟨before, w, after, hways, hfound, hbefore⟩)
      simp [hj, hl] at this
    rw [hput, if_neg hxw]
    exact hbefore x hx

/-- The block of a written line, as the write-through leaves it (R120). -/
theorem bytes_eq_memBytes_syncBlock {p : Params} (h : p.legal) {a : Word} {l : Line} (m : Memory)
    (htag : l.tag = blockNumber p a) (hlen : l.bytes.length = p.block) :
    l.bytes = memBytes (syncBlock p l m) (blockBase p a) p.block := by
  have hend := block_end_le h a
  refine Backing.eq_memBytes hlen fun k hk => ?_
  have haddr : (blockBase p a + BitVec.ofNat 64 k).toNat = blockNumber p a * p.block + k := by
    rw [BitVec.toNat_add, toNat_blockBase, BitVec.toNat_ofNat]
    omega
  rw [memRead_syncBlock p (block_mod_four h) l (by rw [htag]; exact hend), haddr, htag, if_pos (by omega),
    Nat.add_sub_cancel_left, List.getElem?_eq_getElem (by omega)]
  rfl

/-- Settles O58: the write leaves the patched line at its place, where the read finds it, and synchronises its block
with backing memory. -/
theorem writeThenRead : Obligations.WriteThenRead := by
  intro p c a n j l v s h _ hx hq hl hlen
  have hnot : ∀ t : State, (getCache c t).queries = [] → pendingQuery p c a t = none := fun t ht => by
    rw [pendingQuery, ht]; rfl
  obtain ⟨-, -, htag⟩ := cacheLookup_some hl
  have hoff : blockOffset p a + n ≤ ({ l with stamp := s.ts + 1 } : Line).bytes.length := by
    rw [hlen]; exact Backing.crossesBlock_eq_false.mp hx
  rw [cacheWrite_hit hx (hnot s hq) hl]
  have hfound := cacheLookup_of_put (l' := patchLine { l with stamp := s.ts + 1 } (blockOffset p a) n v)
    (t := storeLine p c j { l with stamp := s.ts + 1 } (blockOffset p a) n v (touchLine c j l s)) hl rfl
    (fun i => by
      have hlines : (getCache c (storeLine p c j { l with stamp := s.ts + 1 } (blockOffset p a) n v
          (touchLine c j l s))).lines =
          tablePut (tablePut (getCache c s).lines j { l with stamp := s.ts + 1 }) j
            (patchLine { l with stamp := s.ts + 1 } (blockOffset p a) n v) := by cases c <;> rfl
      rw [hlines, tableGet_put, tableGet_put]
      split_ifs <;> rfl)
  refine ⟨_, _, rfl, ?_, hfound, ?_⟩
  · rw [cacheRead_hit hx (hnot _ (by cases c <;> exact hq)) hfound, lineData_patchLine v hoff]
  · exact bytes_eq_memBytes_syncBlock h _ htag ((Backing.patchLine_length v hoff).trans hlen)

end Sys2Proof.Machine.Timed
end

section
/-!
PROOF of O38: the halt instruction alone in the pipeline, cycle by cycle (47_refdec_instructions.md R293,
70_reset_and_hazards.md R332).
-/

namespace Sys2Proof.Machine.Completion

/-- A cycle that does the same whatever Decode is given is the step. -/
theorem step_of_cycle {s t : State} (h : ∀ d, cycleWith defaultParams refIsHalt d s = t) : step s = .next t := by
  obtain ⟨d, hd⟩ := step_eq_cycle s
  rw [hd, h d]

/-- Cycle 1, Decode: the record goes to `DEEX` and `DE_halted` is set behind `FE_halted` (R175). -/
theorem haltDecode {s : State} {d : Decoded} (h : HaltIssuesAlone s) (hk : d.kind ≠ .invalid) :
    ∃ e m, SlotIdle e.valid e.kind ∧ SlotIdle m.valid m.kind ∧
      cycleWith defaultParams refIsHalt d s =
        { s with
          dataStalled := false, exmem := e, memwb := m, deex := deExOf d s, deHalted := true
          cycleCount := s.cycleCount + 1 } := by
  obtain ⟨⟨hv, hms, hsq, hfl⟩, hpipe, hb, -, hfe, hqi, hqd⟩ := h
  obtain ⟨e, m, he, hm, hbefore⟩ := cycleToExecute_empty (p := defaultParams) hpipe hb
  obtain ⟨hr, hdc, hde, -, -⟩ := hb
  have hdecode : decodeStage d { s with dataStalled := false, exmem := e, memwb := m } =
      { s with dataStalled := false, exmem := e, memwb := m, deex := deExOf d s, deHalted := true } := by
    refine (decodeStage_ready (by exact hde) (by exact hdc) rfl (by exact hv) (by exact hsq) (by exact hfl)
      (by exact hms)).trans ((FrontEnd.issueDecoded_valid hk (by exact hde)).trans ?_)
    show ({ s with
      dataStalled := false, exmem := e, memwb := m, deex := deExOf d s, deHalted := s.feHalted } : State) = _
    rw [hfe]
  exact ⟨e, m, he, hm, cycleWith_of hr hbefore (isFatal_running hr) hdecode (isFatal_running hr)
    (fetchStage_gated (.inl (by exact hfe))) (isFatal_running hr)
    (cycleEnd_idle (isFatal_running hr) (by exact hqi) (by exact hqd))⟩

/-- Decode has issued the halt instruction: it and Fetch have stopped, and nothing can stall Execute or Memory. -/
structure Draining (s : State) : Prop where
  running : s.status = .running
  dcacheStalled : s.dcacheStalled = false
  feHalted : s.feHalted = true
  deHalted : s.deHalted = true
  memHalted : s.memHalted = false
  memwb : SlotIdle s.memwb.valid s.memwb.kind
  queries : NoQueries s

/-- Cycle 2, Execute: the instruction goes to `EXMEM` and `EX_halted` is set behind `DE_halted` (R203). -/
theorem haltExecute {s : State} (h : Draining s) (hex : s.exHalted = false) (hd : FrontEnd.HaltInDeEx s.deex)
    (hx : SlotIdle s.exmem.valid s.exmem.kind) :
    ∃ m, SlotIdle m.valid m.kind ∧ ∀ d, cycleWith defaultParams refIsHalt d s =
      { s with
        dataStalled := false, memwb := m, exmem := exMemOf s, exHalted := true
        cycleCount := s.cycleCount + 1 } := by
  obtain ⟨hr, hdc, hfe, hde, hmh, hw, hqi, hqd⟩ := h
  obtain ⟨hv, hk, -⟩ := hd
  obtain ⟨m, hm, hhazard, hwb, hmemory⟩ := cycleToMemory_idle (p := defaultParams) hx hw hdc hex hmh
  refine ⟨m, hm, fun d => ?_⟩
  have hexecute : executeStage defaultParams { s with dataStalled := false, memwb := m } =
      { s with dataStalled := false, memwb := m, exmem := exMemOf s, exHalted := true } := by
    rw [executeStage_live (by exact hex) (by exact hdc) (by exact hv) rfl (by rw [hk]; rfl),
      executeInstr_plain (by rw [hk]; exact nofun), propagateExHalt, if_pos hde]
    rfl
  exact cycleWith_of hr (cycleToExecute_of hhazard hwb hmemory (isFatal_running hr) hexecute) (isFatal_running hr)
    (decodeStage_gated (.inl (by exact hde))) (isFatal_running hr) (fetchStage_gated (.inl (by exact hfe)))
    (isFatal_running hr) (cycleEnd_idle (isFatal_running hr) (by exact hqi) (by exact hqd))

/-- Cycle 3, Memory: the instruction passes to `MEMWB` and `MEM_halted` is set behind `EX_halted` (R229). -/
theorem haltMemory {s : State} (h : Draining s) (hex : s.exHalted = true) (hx : FrontEnd.HaltInExMem s.exmem)
    (d : Decoded) :
    cycleWith defaultParams refIsHalt d s =
      { hazardUnit s with
        memwb := memWbOf s.exmem 0, memHalted := true, cycleCount := s.cycleCount + 1 } := by
  obtain ⟨hr, hdc, hfe, hde, hmh, hw, hqi, hqd⟩ := h
  have hpass := hx.passesThrough
  obtain ⟨hv, -⟩ := hx
  have hrun : (hazardUnit s).status = .running := by simpa using hr
  have hwb : writebackStage (hazardUnit s) = hazardUnit s :=
    writebackStage_idle (by simpa using hmh) (by simpa [SlotIdle] using hw)
  have hmemory : memoryStage defaultParams (hazardUnit s) =
      { hazardUnit s with memwb := memWbOf s.exmem 0, memHalted := true } := by
    rw [memoryStage_pass (by simpa using hmh) (by simpa using hdc) (by simpa using hv) (by simpa using hpass),
      propagateMemHalt, if_pos (by simpa using hex)]
    show ({ hazardUnit s with memwb := memWbOf (hazardUnit s).exmem 0, memHalted := true } : State) = _
    rw [hazardUnit_exmem]
  have hend := cycleEnd_idle (p := defaultParams)
    (s := { hazardUnit s with memwb := memWbOf s.exmem 0, memHalted := true }) (isFatal_running hrun)
    (by simpa using hqi) (by simpa using hqd)
  rw [hazardUnit_cycleCount] at hend
  exact cycleWith_of hr (cycleToExecute_of rfl hwb hmemory (isFatal_running hrun)
    (executeStage_skip (.inl (by simpa using hex)))) (isFatal_running hrun)
    (decodeStage_gated (.inl (by simpa using hde))) (isFatal_running hrun)
    (fetchStage_gated (.inl (by simpa using hfe))) (isFatal_running hrun) hend

theorem haltInMemWb_memWbOf {e : ExMem} (h : FrontEnd.HaltInExMem e) : FrontEnd.HaltInMemWb (memWbOf e 0) := by
  obtain ⟨-, hk, -, hwb⟩ := h
  exact ⟨rfl, hk, hwb⟩

/-- Settles O38: the four cycles in turn, the last by `Frame.cycleWith_drained`. -/
theorem haltCompletes : Obligations.HaltCompletes := by
  intro s imm16 h
  obtain ⟨e, m, he, hm, hdecode⟩ := haltDecode (d := recordOf (.hlt imm16)) h nofun
  obtain ⟨-, -, ⟨hr, hdc, -, hex, hmh⟩, -, hfe, hq⟩ := h
  have hexec : exec (.hlt imm16) s = .next _ :=
    (exec_eq_issue (.hlt imm16) s).trans (congrArg Host.Outcome.next hdecode)
  generalize ht1 : ({ s with
    dataStalled := false, exmem := e, memwb := m, deex := deExOf (recordOf (.hlt imm16)) s, deHalted := true
    cycleCount := s.cycleCount + 1 } : State) = t1 at hexec
  have hdeex : FrontEnd.HaltInDeEx t1.deex := by subst ht1; exact ⟨rfl, rfl, rfl, rfl, rfl⟩
  have hdrain1 : Draining t1 := by subst ht1; exact ⟨hr, hdc, hfe, rfl, hmh, hm, hq⟩
  obtain ⟨m2, hm2, hexecute⟩ :=
    haltExecute hdrain1 (by subst ht1; exact hex) hdeex (by subst ht1; exact he)
  generalize ht2 : ({ t1 with
    dataStalled := false, memwb := m2, exmem := exMemOf t1, exHalted := true
    cycleCount := t1.cycleCount + 1 } : State) = t2 at hexecute
  have hexmem : FrontEnd.HaltInExMem t2.exmem := by subst ht2; exact FrontEnd.haltInExMem_exMemOf hdeex
  have hdrain2 : Draining t2 := by subst ht2; exact { hdrain1 with memwb := hm2 }
  have hmemory := haltMemory hdrain2 (by subst ht2; rfl) hexmem
  generalize ht3 : ({ hazardUnit t2 with
    memwb := memWbOf t2.exmem 0, memHalted := true, cycleCount := t2.cycleCount + 1 } : State) = t3 at hmemory
  obtain ⟨hr2, -, hfe2, hde2, -, -, hqi2, hqd2⟩ := hdrain2
  have hdrained := fun d => Frame.cycleWith_drained (d := d) (s := t3) (by subst ht3; simpa using hr2)
    (by subst ht3; exact haltInMemWb_memWbOf hexmem) (by subst ht3; rfl) (by subst ht3 ht2; simp)
    (by subst ht3; simpa using hde2) (by subst ht3; simpa using hfe2) (by subst ht3; simpa using hqi2)
    (by subst ht3; simpa using hqd2)
  refine ⟨t1, t2, t3, _, hexec, step_of_cycle hexecute, step_of_cycle hmemory, step_of_cycle hdrained, ?_⟩
  subst ht3 ht2 ht1
  simp [hex, hmh, hr, FlagsUnchanged, DataUntouched, RegsUnchanged, BitVec.add_assoc]
  exact fun r => readReg_congr rfl r

end Sys2Proof.Machine.Completion
end

section
/-!
PROOFS of O45 and O46: a data access that does not complete freezes the pipeline behind Memory
(45_memory_writeback.md R226), ten such cycles bring its block, and the access then hits (R227, R231).
-/

namespace Sys2Proof.Machine.DataMiss

/-! ## A cycle in which the access of Memory does not complete -/

theorem dataAccess_pending {s : State} {q : Query}
    (hx : crossesBlock defaultParams s.exmem.aluResult (widthBytes s.exmem.mem.width) = false)
    (hq : pendingQuery defaultParams .dc s.exmem.aluResult s = some q) :
    dataAccess defaultParams s = (.waiting q.rem, s) := by
  have e := cacheRead_pending hx hq
  exact (Backing.dataAccess_not_done (by simp [e])).trans e

theorem dataAccess_miss {s : State}
    (hx : crossesBlock defaultParams s.exmem.aluResult (widthBytes s.exmem.mem.width) = false)
    (hq : pendingQuery defaultParams .dc s.exmem.aluResult s = none)
    (hl : cacheLookup defaultParams .dc s.exmem.aluResult s = none) :
    dataAccess defaultParams s = (.waiting missLatency,
      setQueries .dc
        (s.dc.queries ++ [{ base := blockBase defaultParams s.exmem.aluResult, rem := missLatency }]) s) := by
  have e := cacheRead_miss hx hq hl
  exact (Backing.dataAccess_not_done (by simp [e])).trans e

theorem writebackStage_status {s : State} (hm : s.memHalted = false) : (writebackStage s).status = s.status := by
  have hstop : writebackStop s = s := by simp [writebackStop, hm]
  unfold writebackStage
  rw [hstop]
  split_ifs
  · rfl
  · rfl
  · simp

/-- Memory holds an access that makes a cache access, and what `EXMEM` holds is what it works on. -/
structure AccessInMemory (s : State) : Prop where
  running : s.status = .running
  memHalted : s.memHalted = false
  valid : s.exmem.valid = true
  accesses : passesThrough s.exmem = false
  inBlock : crossesBlock defaultParams s.exmem.aluResult (widthBytes s.exmem.mem.width) = false
  kept : s.dcacheStalled = true → s.exmem = s.exmemCkpt

/-- Writeback comes before Memory, and leaves it what it works on. -/
theorem AccessInMemory.afterMemory_eq {s : State} (h : AccessInMemory s) :
    afterMemory s = memoryMove defaultParams (writebackStage (hazardUnit s)) := by
  obtain ⟨-, hmh, hv, -, -, hkept⟩ := h
  rw [afterMemory, memoryStage_live (by simpa using hmh) (by simpa using hv),
    Invariant.restoreExMem_kept (by simpa using hkept)]

/-- The state in which Memory leaves an incomplete access whose queries are `qs` (R226). -/
def stalled (qs : List Query) (s : State) : State := stallMemory (setQueries .dc qs (writebackStage (hazardUnit s)))

/-- After Memory has stalled, only the end of the cycle acts (44_execute.md R180, 43_fetch_decode.md R156, R167). -/
theorem AccessInMemory.step_stalled {s : State} (h : AccessInMemory s) {k : Nat} {qs : List Query}
    (hd : dataAccess defaultParams (writebackStage (hazardUnit s)) =
      (.waiting k, setQueries .dc qs (writebackStage (hazardUnit s)))) :
    step s = .next (cycleEnd defaultParams (stalled qs s)) := by
  have hmemory := h.afterMemory_eq
  obtain ⟨hr, hmh, -, hacc, -, -⟩ := h
  rw [memoryMove_waiting (by simpa using hacc) hd] at hmemory
  have hrun : isFatal (stalled qs s) = false :=
    isFatal_running (by simp [stalled, writebackStage_status, hmh, hr])
  have hst : (stalled qs s).dcacheStalled = true := stallMemory_dcacheStalled _
  obtain ⟨d, hstep⟩ := step_eq_cycle s
  rw [hstep, cycleWith_of hr (cycleToExecute_of rfl rfl hmemory hrun (executeStage_skip (.inr (.inl hst)))) hrun
    (decodeStage_gated (.inr (.inl hst))) hrun (fetchStage_gated (.inr (.inl hst))) hrun rfl]
  rfl

/-- Settles O45: the query is found again, and nothing but Memory's bubble and the end of the cycle follows. -/
theorem dataMissFreezes : Obligations.DataMissFreezes := by
  intro s q hr hmh hst hv hkept hacc hx hq
  have h : AccessInMemory s := ⟨hr, hmh, hv, hacc, hx, fun _ => hkept⟩
  have hstep := h.step_stalled (k := q.rem) (qs := s.dc.queries) (by
    have hself : setQueries .dc s.dc.queries (writebackStage (hazardUnit s)) = writebackStage (hazardUnit s) := by
      conv_rhs => rw [← setQueries_self .dc (writebackStage (hazardUnit s))]
      simp
    rw [hself]
    exact dataAccess_pending (by simpa using hx) (by simpa [pendingQuery] using hq))
  exact ⟨_, hstep, by simp [stalled, hmh]⟩

/-! ## The end of the cycle, where every query has cycles left (40_cache.md R118) -/

/-- A tick counts each query down by 1 and drops those that reach 0. -/
theorem cyclesLeft_tickQueries {p : Params} {c : CacheId} {kept qs : List Query} (hk : Exceptions.CyclesLeft kept)
    (hq : Exceptions.CyclesLeft qs) (s : State) :
    Exceptions.CyclesLeft (getCache c (tickQueries p c kept qs s)).queries := by
  induction qs generalizing kept s with
  | nil => rwa [tickQueries, Timed.getCache_setQueries]
  | cons q rest ih =>
    have hpos := hq q List.mem_cons_self
    have hrest : Exceptions.CyclesLeft rest := fun x hx => hq x (List.mem_cons_of_mem _ hx)
    rw [tickQueries, if_neg (by omega)]
    split_ifs
    · exact ih hk hrest _
    · refine ih (fun x hx => ?_) hrest s
      rcases List.mem_append.mp hx with hx | hx
      · exact hk x hx
      · rw [List.mem_singleton.mp hx]
        show 1 ≤ q.rem - 1
        omega

theorem cyclesLeft_cacheTick {s : State} (h : Exceptions.CyclesLeft s.ic.queries) :
    Exceptions.CyclesLeft (cacheTick defaultParams .ic s).ic.queries :=
  cyclesLeft_tickQueries (p := defaultParams) (c := .ic) (fun _ hq => absurd hq List.not_mem_nil) h s

/-- The data cache is ticked after the instruction cache, whose fill moves the timestamp only. -/
theorem cycleEnd_running {s : State} (hr : s.status = .running) (hi : Exceptions.CyclesLeft s.ic.queries)
    (hd : Exceptions.CyclesLeft s.dc.queries) :
    cycleEnd defaultParams s =
      { cacheTick defaultParams .dc (cacheTick defaultParams .ic s) with cycleCount := s.cycleCount + 1 } := by
  have hic : (cacheTick defaultParams .ic s).status = s.status := Exceptions.tickQueries_status hi [] s
  have hdc : (cacheTick defaultParams .dc (cacheTick defaultParams .ic s)).status =
      (cacheTick defaultParams .ic s).status :=
    Exceptions.tickQueries_status (by simpa using hd) [] _
  rw [cycleEnd, unlessFatal_ok (isFatal_running (hic.trans hr)),
    unlessFatal_ok (isFatal_running (hdc.trans (hic.trans hr))), cacheTick_cycleCount, cacheTick_cycleCount]

/-! ## The stall, cycle by cycle -/

/-- Memory waits for a block that no line holds: at the end of this cycle `r` becomes `r - 1` (40_cache.md R113,
R118). -/
structure DataStall (s : State) (r : Nat) : Prop extends AccessInMemory s where
  absent : cacheLookup defaultParams .dc s.exmem.aluResult s = none
  icCycles : Exceptions.CyclesLeft s.ic.queries
  query : (s.dc.queries = [] ∧ r = missLatency) ∨
    s.dc.queries = [{ base := blockBase defaultParams s.exmem.aluResult, rem := r }]

/-- What `k` cycles of the stall leave as it was, and where Memory then stands. -/
structure Frozen (k : Nat) (s t : State) : Prop where
  running : t.status = .running
  memHalted : t.memHalted = false
  dcacheStalled : t.dcacheStalled = true
  exmem : t.exmem = s.exmem
  exmemCkpt : t.exmemCkpt = s.exmem
  ifde : t.ifde = s.ifde
  pc : t.pc = s.pc
  mem : t.mem = s.mem
  cycleCount : t.cycleCount = s.cycleCount + BitVec.ofNat 64 k
  icCycles : Exceptions.CyclesLeft t.ic.queries

theorem Frozen.trans {j k : Nat} {s t u : State} (h : Frozen j s t) (h' : Frozen k t u) : Frozen (k + j) s u where
  running := h'.running
  memHalted := h'.memHalted
  dcacheStalled := h'.dcacheStalled
  exmem := h'.exmem.trans h.exmem
  exmemCkpt := h'.exmemCkpt.trans h.exmem
  ifde := h'.ifde.trans h.ifde
  pc := h'.pc.trans h.pc
  mem := h'.mem.trans h.mem
  cycleCount := by rw [h'.cycleCount, h.cycleCount, BitVec.add_assoc, ← BitVec.ofNat_add, Nat.add_comm]
  icCycles := h'.icCycles

/-- A frozen access is still one that Memory works on. -/
theorem Frozen.accessInMemory {k : Nat} {s t : State} (h : Frozen k s t) (hs : AccessInMemory s) :
    AccessInMemory t := by
  obtain ⟨-, -, hv, hacc, hx, -⟩ := hs
  exact ⟨h.running, h.memHalted, by rwa [h.exmem], by rwa [h.exmem], by rwa [h.exmem],
    fun _ => h.exmem.trans h.exmemCkpt.symm⟩

theorem stallMemory_exmemCkpt {s : State} (h : s.dcacheStalled = true → s.exmem = s.exmemCkpt) :
    (stallMemory s).exmemCkpt = s.exmem := by
  unfold stallMemory
  split_ifs with hs
  · exact (h hs).symm
  · rfl

/-- One cycle of the stall: the state after it is that of the two ticks. -/
theorem DataStall.ticks {s : State} {r : Nat} (h : DataStall s (r + 1)) :
    ∃ u t, step s = .next t ∧ Frozen 1 s t ∧ t.dc = (cacheTick defaultParams .dc u).dc ∧ u.mem = s.mem ∧
      u.dc = { s.dc with queries := [{ base := blockBase defaultParams s.exmem.aluResult, rem := r + 1 }] } := by
  obtain ⟨hacc, habs, hicq, hquery⟩ := h
  obtain ⟨v, hv⟩ : ∃ v, v = stalled [{ base := blockBase defaultParams s.exmem.aluResult, rem := r + 1 }] s :=
    ⟨_, rfl⟩
  have hstep : step s = .next (cycleEnd defaultParams v) := by
    rw [hv]
    rcases hquery with ⟨hnil, hr⟩ | hone
    · refine hacc.step_stalled (k := missLatency) ?_
      rw [dataAccess_miss (by simpa using hacc.inBlock) (by simp [pendingQuery, hnil])
        (by simpa using (cacheLookup_congr (by simp)).trans habs)]
      simp [hnil, hr]
    · refine hacc.step_stalled (k := r + 1) ?_
      rw [dataAccess_pending (q := { base := blockBase defaultParams s.exmem.aluResult, rem := r + 1 })
        (by simpa using hacc.inBlock) (by simp [pendingQuery, hone])]
      have hself := setQueries_self .dc (writebackStage (hazardUnit s))
      rw [getCache_dc, writebackStage_dc, hazardUnit_dc, hone] at hself
      rw [hself]
  obtain ⟨hr, hmh, -, -, -, hkept⟩ := hacc
  have hrun : v.status = .running := by rw [hv]; simp [stalled, writebackStage_status, hmh, hr]
  have hic : Exceptions.CyclesLeft v.ic.queries := by rw [hv]; simpa [stalled] using hicq
  have hdc : Exceptions.CyclesLeft v.dc.queries := by rw [hv]; simp [stalled, Exceptions.CyclesLeft]
  have hckpt : v.exmemCkpt = s.exmem := by
    rw [hv, stalled, stallMemory_exmemCkpt (by simpa using hkept)]
    simp
  refine ⟨cacheTick defaultParams .ic v, _, hstep, ?_, ?_, by simp [hv, stalled], by simp [hv, stalled]⟩
  · refine ⟨(Exceptions.cycleEnd_status hic hdc).trans hrun, by simp [hv, stalled, hmh], by simp [hv, stalled],
      by simp [hv, stalled], ?_, by simp [hv, stalled], by simp [hv, stalled], by simp [hv, stalled], ?_, ?_⟩
    · simp [cycleEnd_running hrun hic hdc, hckpt]
    · rw [cycleEnd_running hrun hic hdc, hv]
      simp [stalled]
    · rw [cycleEnd_ic]
      exact cyclesLeft_cacheTick hic
  · rw [cycleEnd_running hrun hic hdc]

/-- The access can complete: its block is in the data cache, with the bytes memory holds of it, and the cache has
no query. -/
def BlockArrived (t : State) : Prop :=
  t.dc.queries = [] ∧ ∃ j l, cacheLookup defaultParams .dc t.exmem.aluResult t = some (j, l) ∧
    l.bytes = memBytes t.mem (blockBase defaultParams t.exmem.aluResult) defaultParams.block

/-- A cycle that does not end the stall (40_cache.md R118). -/
theorem DataStall.goes_on {s : State} {r : Nat} (h : DataStall s (r + 2)) :
    ∃ t, step s = .next t ∧ Frozen 1 s t ∧ DataStall t (r + 1) := by
  obtain ⟨u, t, hstep, hfrozen, htick, -, hdc⟩ := h.ticks
  rw [cacheTick_one (c := .dc) (b := blockBase defaultParams s.exmem.aluResult) (k := r) (by rw [getCache_dc, hdc]),
    setQueries_dc_dc, hdc] at htick
  refine ⟨t, hstep, hfrozen, hfrozen.accessInMemory h.toAccessInMemory, ?_, hfrozen.icCycles, .inr ?_⟩
  · rw [hfrozen.exmem, cacheLookup_congr (s := s) (by simp [htick])]
    exact h.absent
  · rw [hfrozen.exmem, htick]

/-- The cycle that ends the stall fills the line from memory (40_cache.md R118, R119). -/
theorem DataStall.ends {s : State} (h : DataStall s 1) :
    ∃ t, step s = .next t ∧ Frozen 1 s t ∧ BlockArrived t := by
  obtain ⟨u, t, hstep, hfrozen, htick, hmem, hdc⟩ := h.ticks
  have habsent : cacheLookup defaultParams .dc s.exmem.aluResult u = none :=
    (cacheLookup_congr (by simp [hdc])).trans h.absent
  obtain ⟨j, hj⟩ := FrontEnd.cacheLookup_cacheFill (b := blockBase defaultParams s.exmem.aluResult) (by decide)
    (Invariant.blockNumber_blockBase _) habsent
  rw [cacheTick_last (c := .dc) (b := blockBase defaultParams s.exmem.aluResult) (by rw [getCache_dc, hdc]),
    setQueries_dc_dc] at htick
  have hfound := (cacheLookup_congr (t := t) (by simp [htick])).trans hj
  rw [← hfrozen.exmem] at hfound
  refine ⟨t, hstep, hfrozen, by rw [htick], j, _, hfound, ?_⟩
  rw [hfrozen.mem, ← hmem, Backing.fillBytes_eq_memBytes _ rfl]

theorem runCycles_step {s t : State} {k : Nat} (h : step s = .next t) : runCycles (k + 1) s = runCycles k t := by
  have hc : Sys2Proof.core.step s = .next t := h
  show Host.Core.run Sys2Proof.core (k + 1) s = Host.Core.run Sys2Proof.core k t
  simp only [Host.Core.run, hc]

/-- The whole stall. -/
theorem DataStall.run {s : State} {r : Nat} (h : DataStall s (r + 1)) :
    ∃ t, runCycles (r + 1) s = .next t ∧ Frozen (r + 1) s t ∧ BlockArrived t := by
  induction r generalizing s with
  | zero =>
    obtain ⟨t, hstep, hfrozen, harrived⟩ := h.ends
    exact ⟨t, (runCycles_step hstep).trans (runCycles_zero t), hfrozen, harrived⟩
  | succ r ih =>
    obtain ⟨t, hstep, hfrozen, hstall⟩ := h.goes_on
    obtain ⟨u, hrun, hfrozen', harrived⟩ := ih hstall
    exact ⟨u, (runCycles_step hstep).trans hrun, hfrozen.trans hfrozen', harrived⟩

/-! ## The access completes (45_memory_writeback.md R227) -/

/-- What of the state an instruction in Memory leaves is not touched in the rest of the cycle. -/
theorem step_eq_afterMemory {α : Type} (g : State → α) {s t : State} (hr : s.status = .running)
    (hstep : step s = .next t) (hx : ∀ s, g (executeStage defaultParams s) = g s)
    (hd : ∀ d s, g (decodeStage d s) = g s) (hf : ∀ s, g (fetchStage defaultParams refIsHalt s) = g s)
    (ht : ∀ c s, g (cacheTick defaultParams c s) = g s) (hc : ∀ s n, g { s with cycleCount := n } = g s) :
    g t = g (afterMemory s) := by
  rw [FrontEnd.next_eq_refDecode hstep, Execution.cycleWith_eq_beforeDecode g hr hc ht hf (hd _), beforeDecode_eq]
  exact unlessFatal_keeps g hx _

/-- An access that hits completes in the cycle. -/
theorem AccessInMemory.afterMemory_hit {s : State} (h : AccessInMemory s) (hq : s.dc.queries = []) {j : Nat} {l : Line}
    (hl : cacheLookup defaultParams .dc s.exmem.aluResult s = some (j, l)) :
    afterMemory s =
      completeMemory (lineData l (blockOffset defaultParams s.exmem.aluResult) (widthBytes s.exmem.mem.width))
        (Invariant.hitState defaultParams j l (writebackStage (hazardUnit s))) := by
  have hmemory := h.afterMemory_eq
  have hexmem : (writebackStage (hazardUnit s)).exmem = s.exmem := by simp
  have hlookup : cacheLookup defaultParams .dc s.exmem.aluResult (writebackStage (hazardUnit s)) = some (j, l) :=
    (cacheLookup_congr (by simp)).trans hl
  have hnone : pendingQuery defaultParams .dc s.exmem.aluResult (writebackStage (hazardUnit s)) = none := by
    simp [pendingQuery, hq]
  have hx := h.inBlock
  have hacc := h.accesses
  rw [hmemory]
  rw [← hexmem] at hlookup hnone hx hacc
  rcases Invariant.dataAccess_cases defaultParams (writebackStage (hazardUnit s)) with
    ⟨hcross, -⟩ | ⟨q, hpend, -⟩ | ⟨-, -, i, l', hfound, e⟩ | ⟨-, habsent, -⟩
  · rw [hx] at hcross; cases hcross
  · rw [hnone] at hpend; cases hpend
  · rw [hlookup] at hfound
    cases hfound
    rw [memoryMove_done hacc e, hexmem]
  · rw [hlookup] at habsent; cases habsent

@[simp] theorem hitState_exmem (j : Nat) (l : Line) (s : State) :
    (Invariant.hitState defaultParams j l s).exmem = s.exmem := by
  unfold Invariant.hitState
  split <;> rfl

/-- The bytes after a hit: those of the store, if it is one (40_cache.md R116). -/
theorem memRead_hitState {s : State} {j : Nat} {l : Line}
    (hx : crossesBlock defaultParams s.exmem.aluResult (widthBytes s.exmem.mem.width) = false)
    (ht : l.tag = blockNumber defaultParams s.exmem.aluResult)
    (hl : l.bytes = memBytes s.mem (blockBase defaultParams s.exmem.aluResult) defaultParams.block) (a : Word) :
    memRead (Invariant.hitState defaultParams j l s).mem a =
      if s.exmem.mem.memRead = false ∧ (a - s.exmem.aluResult).toNat < widthBytes s.exmem.mem.width then
        s.exmem.storeData.extractLsb' (8 * (a - s.exmem.aluResult).toNat) 8
      else memRead s.mem a := by
  unfold Invariant.hitState
  cases hread : s.exmem.mem.memRead with
  | true => simp
  | false =>
    have hline : l.bytes = memBytes s.mem (tagBase defaultParams l.tag) 32 := by
      rw [ht, Completion.tagBase_blockNumber_eq]
      exact hl
    have hbyte := Backing.memRead_syncBlock_storedInto (s.ts + 1) hx ht hline a
    exact hbyte.trans (if_congr (by simp) rfl rfl)

/-- Settles O46: ten cycles of `DataStall.run`, and the access then hits the line they brought. -/
theorem dataMissCompletes : Obligations.DataMissCompletes := by
  intro s hr hmh hst hv hlive hop hx hq hicq habs
  have hacc : AccessInMemory s :=
    ⟨hr, hmh, hv, Backing.passesThrough_eq_false.mpr ⟨hlive, hop⟩, hx, fun h => by rw [hst] at h; cases h⟩
  have hstall : DataStall s (9 + 1) :=
    ⟨hacc, habs, Exceptions.cyclesLeft_of_queriesInv hicq, .inl ⟨hq, rfl⟩⟩
  obtain ⟨t, hrun, hfrozen, hnone, j, l, hl, hbytes⟩ := hstall.run
  have hacct := hfrozen.accessInMemory hacc
  have hdone := hacct.afterMemory_hit hnone hl
  obtain ⟨-, -, htag⟩ := cacheLookup_some hl
  have hstep := FrontEnd.step_eq_refDecode t
  have hstalled := step_eq_afterMemory State.dcacheStalled hfrozen.running hstep (by simp) (by simp) (by simp)
    (by simp) (fun _ _ => rfl)
  have hmemwb := step_eq_afterMemory State.memwb hfrozen.running hstep (by simp) (by simp) (by simp)
    (by simp) (fun _ _ => rfl)
  have hmem := step_eq_afterMemory State.mem hfrozen.running hstep (by simp) (by simp) (by simp)
    (by simp) (fun _ _ => rfl)
  rw [hdone] at hstalled hmemwb hmem
  refine ⟨t, _, hrun, hstep, hfrozen.dcacheStalled, hfrozen.exmem, hfrozen.ifde, hfrozen.pc, hfrozen.mem,
    hfrozen.cycleCount, ?_, ?_, fun a => ?_⟩
  · rw [hstalled]
    simp
  · rw [hmemwb, Completion.lineData_eq_memBytes hacct.inBlock hbytes, hfrozen.mem]
    simp [memWbOf, hfrozen.exmem]
  · rw [hmem, completeMemory_mem, memRead_hitState (by simpa using hacct.inBlock) (by simpa using htag)
      (by simpa using hbytes)]
    simp [hfrozen.exmem, hfrozen.mem]

end Sys2Proof.Machine.DataMiss
end

section
/-!
PROOF of O44: the cycle in which a consumer waits for the load before it, and the forwarding in the next
(42_hazard_forwarding.md R144, R145, R147, R150).
-/

namespace Sys2Proof.Machine.Hazard

/-- The hazard unit leaves what the instruction in `DEEX` is and which registers it reads. -/
theorem hazardUnit_deex_sources (s : State) :
    (hazardUnit s).deex.layout = s.deex.layout ∧ (hazardUnit s).deex.srcA = s.deex.srcA ∧
      (hazardUnit s).deex.srcB = s.deex.srcB := by
  obtain ⟨-, ⟨_, _, _, _, _, _, e⟩, -⟩ := hazardUnitFrame s
  rw [e]
  exact ⟨rfl, rfl, rfl⟩

/-- What the instruction in `EXMEM` no longer writes, `MEMWB` forwards to each slot that needs it (R145). -/
theorem hazardUnit_from_memWb {t : State} (hv : t.deex.valid = true) (hk : isBubble t.deex.kind = false)
    (hx : isBubble t.exmem.kind = true) (hdst : t.memwb.dst ≠ zeroReg) (hw : MemWbWrites t t.memwb.dst) :
    (hazardUnit t).dataStalled = false ∧
      (needsA t.deex.layout = true → t.deex.srcA = t.memwb.dst → (hazardUnit t).deex.valA = memWbValue t.memwb) ∧
      (needsB t.deex.layout = true → t.deex.srcB = t.memwb.dst → (hazardUnit t).deex.valB = memWbValue t.memwb) := by
  have hnot : ∀ r, ¬ExMemWrites t r := fun r ⟨_, h, _⟩ => by rw [hx] at h; cases h
  refine ⟨?_, fun hneed hsrc => ?_, fun hneed hsrc => ?_⟩
  · rw [← Bool.not_eq_true]
    intro h
    obtain ⟨-, -, hiff⟩ := hazardUnitFrame t
    obtain ⟨-, -, -, hlive, -⟩ := hiff.mp h
    rw [hx] at hlive
    cases hlive
  · rw [hazardUnit_valA hv hk, slotA, hneed, hsrc, forwardSlot_memWb hdst (hnot _) hw]
  · rw [hazardUnit_valB hv hk, slotB, hneed, hsrc, forwardSlot_memWb hdst (hnot _) hw]

/-- Under a data stall Execute sends a bubble and the stages behind it wait (44_execute.md R181). -/
theorem step_dataStalled {s : State} (hr : s.status = .running) (hex : s.exHalted = false)
    (hv : s.deex.valid = true) (hd : (hazardUnit s).dataStalled = true) (hm : isFatal (afterMemory s) = false)
    (hc : (afterMemory s).dcacheStalled = false) :
    step s = .next (cycleEnd defaultParams { afterMemory s with exmem := bubbleExMem .dataBubble s.deex.pc }) := by
  obtain ⟨hvalid, -, hpc, -⟩ := Prediction.hazardUnit_deex_control s
  have hdeex : (afterMemory s).deex = (hazardUnit s).deex := by simp [afterMemory]
  have haddr : (afterMemory s).deex.pc = s.deex.pc := by rw [hdeex, hpc]
  have hstall : (afterMemory s).dataStalled = true := by simpa [afterMemory] using hd
  have hexecute : executeStage defaultParams (afterMemory s) =
      { afterMemory s with exmem := bubbleExMem .dataBubble s.deex.pc } := by
    rw [executeStage_dataStall (by simpa [afterMemory] using hex) hc (by rw [hdeex, hvalid]; exact hv) hstall,
      haddr]
  obtain ⟨d, hstep⟩ := step_eq_cycle s
  rw [hstep, cycleWith_of hr (cycleToExecute_of rfl rfl rfl hm hexecute) hm
    (decodeStage_gated (.inr (.inr (.inl hstall)))) hm (fetchStage_gated (.inr (.inr hstall))) hm rfl]

/-- Settles O44: Memory completes the load in the cycle in which its consumer is held. -/
theorem loadUseStallsOnce : Obligations.LoadUseStallsOnce := by
  intro s j l hb hq hxv hxk hread hw hm hdst hhit hv hk hneeds
  obtain ⟨hr, hdc, -, hex, hmh⟩ := hb
  obtain ⟨hx, hl⟩ := hhit
  have hacc : DataMiss.AccessInMemory s :=
    ⟨hr, hmh, hxv, Backing.passesThrough_eq_false.mpr ⟨hxk, .inl hread⟩, hx, fun h => by rw [hdc] at h; cases h⟩
  have hmemory := hacc.afterMemory_hit hq hl
  obtain ⟨-, -, hiff⟩ := hazardUnitFrame s
  have hstall : (hazardUnit s).dataStalled = true := hiff.mpr ⟨hv, hk, hxv, hxk, hw, hread, hdst, hneeds⟩
  have hfatal : isFatal (afterMemory s) = false := by
    rw [← Bool.not_eq_true, afterMemory_isFatal hr]
    rintro ⟨-, -, hcross⟩
    rw [memoryOperand, if_neg (by simp [hdc]), hx] at hcross
    cases hcross
  have hstep := step_dataStalled hr hex hv hstall hfatal (by rw [hmemory]; simp)
  have hmemwb : (afterMemory s).memwb = memWbOf s.exmem (lineData l (blockOffset defaultParams s.exmem.aluResult)
      (widthBytes s.exmem.mem.width)) := by
    rw [hmemory]
    simp [hread]
  obtain ⟨t, ht⟩ : ∃ t, t = cycleEnd defaultParams
    { afterMemory s with exmem := bubbleExMem .dataBubble s.deex.pc } := ⟨_, rfl⟩
  rw [← ht] at hstep
  have htx : t.exmem = bubbleExMem .dataBubble s.deex.pc := by simp [ht]
  have htw : t.memwb = (afterMemory s).memwb := by simp [ht]
  have htd : t.deex = (hazardUnit s).deex := by simp [ht, afterMemory]
  rw [hmemwb] at htw
  obtain ⟨hvalid, hkind, -⟩ := Prediction.hazardUnit_deex_control s
  obtain ⟨hlayout, hsrcA, hsrcB⟩ := hazardUnit_deex_sources s
  have hwrites : MemWbWrites t t.memwb.dst := by
    rw [MemWbWrites, htw]
    exact ⟨rfl, hxk, hw, rfl⟩
  obtain ⟨hgo, hA, hB⟩ := hazardUnit_from_memWb (t := t) (by rw [htd, hvalid]; exact hv)
    (by rw [htd, hkind]; exact hk) (by rw [htx]; rfl) (by rw [htw]; exact hdst) hwrites
  have hvalue : memWbValue t.memwb = t.memwb.memData := by
    rw [htw, memWbValue]
    exact if_pos hm
  rw [hvalue, htd, hlayout, hsrcA, show t.memwb.dst = s.exmem.dst by rw [htw]; rfl] at hA
  rw [hvalue, htd, hlayout, hsrcB, show t.memwb.dst = s.exmem.dst by rw [htw]; rfl] at hB
  exact ⟨t, hstep, htx, by simp [ht, afterMemory], by simp [ht, afterMemory], by simp [ht, afterMemory], htd,
    by rw [htw]; rfl, hgo, hA, hB⟩

end Sys2Proof.Machine.Hazard
end

section
/-!
PROOFS of O35 to O37: a branch alone in the pipeline. Execute resolves it in the cycle after Decode, by the
prediction it was fetched with (44_execute.md R195 to R201); in the two cycles after that it goes through Memory
and Writeback and writes nothing.
-/

namespace Sys2Proof.Machine.Completion

/-! ## Cycles in which no instruction has anything to do -/

/-- `DEEX` holds a bubble, Memory has no access to make, and what retires writes no register and no flag. -/
structure Quiet (s : State) : Prop where
  running : s.status = .running
  dcacheStalled : s.dcacheStalled = false
  exHalted : s.exHalted = false
  memHalted : s.memHalted = false
  noQuery : s.dc.queries = []
  deexValid : s.deex.valid = true
  deexBubble : isBubble s.deex.kind = true
  exmemValid : s.exmem.valid = true
  passes : passesThrough s.exmem = true
  silent : Retires s → s.memwb.wb = WbCtl.zero

/-- Retiring an instruction that writes nothing counts it (45_memory_writeback.md R238). -/
theorem retire_silent {m : MemWb} (h : m.wb = WbCtl.zero) (s : State) :
    retire m s = { s with retiredCount := s.retiredCount + 1 } := by
  simp [retire, writebackFlags, writebackReg, h, WbCtl.zero]

theorem writebackStage_silent {s : State} (hm : s.memHalted = false) (h : Retires s → s.memwb.wb = WbCtl.zero) :
    ∃ n, (Retires s → n = s.retiredCount + 1) ∧ (¬Retires s → n = s.retiredCount) ∧
      writebackStage s = { s with retiredCount := n } := by
  have hstop : writebackStop s = s := by simp [writebackStop, hm]
  by_cases hret : Retires s
  · have hwb := h hret
    obtain ⟨hv, hk⟩ := id hret
    exact ⟨_, fun _ => rfl, fun hno => absurd hret hno, by
      rw [writebackStage_live hv hk, retire_silent hwb, hstop]⟩
  · refine ⟨_, fun hyes => absurd hyes hret, fun _ => rfl, writebackStage_idle hm fun hv => ?_⟩
    by_contra hk
    exact hret ⟨hv, by simpa using hk⟩

/-- A quiet cycle up to Decode. -/
theorem Quiet.beforeDecode_eq {s : State} (h : Quiet s) :
    ∃ n, (Retires s → n = s.retiredCount + 1) ∧ (¬Retires s → n = s.retiredCount) ∧ beforeDecode s =
      { s with
        dataStalled := false, retiredCount := n, memwb := memWbOf s.exmem 0
        exmem := bubbleExMem s.deex.kind s.deex.pc } := by
  obtain ⟨hr, hdc, hex, hmh, -, hdv, hdk, hxv, hpass, hsilent⟩ := h
  have hhazard : hazardUnit s = { s with dataStalled := false } := hazardUnit_idle fun _ => hdk
  obtain ⟨n, hyes, hno, hwb⟩ := writebackStage_silent (s := { s with dataStalled := false }) hmh hsilent
  refine ⟨n, hyes, hno, ?_⟩
  have hmemory : memoryStage defaultParams { s with dataStalled := false, retiredCount := n } =
      { s with dataStalled := false, retiredCount := n, memwb := memWbOf s.exmem 0 } := by
    rw [memoryStage_pass (by exact hmh) (by exact hdc) (by exact hxv) (by exact hpass), propagateMemHalt,
      if_neg (by simp [hex])]
  exact cycleToExecute_of hhazard hwb hmemory (isFatal_running hr)
    (executeStage_bubble (by exact hex) (by exact hdc) (by exact hdv) rfl (by exact hdk))

/-- What a quiet cycle leaves alone. -/
structure Untouched (s t : State) : Prop where
  regs : t.regs = s.regs
  z : t.z = s.z
  n : t.n = s.n
  mem : t.mem = s.mem
  dc : t.dc = s.dc
  pred : t.pred = s.pred

theorem Untouched.trans {s t u : State} (h : Untouched s t) (h' : Untouched t u) : Untouched s u :=
  ⟨h'.regs.trans h.regs, h'.z.trans h.z, h'.n.trans h.n, h'.mem.trans h.mem, h'.dc.trans h.dc,
    h'.pred.trans h.pred⟩

/-- The data cache ends a cycle as Memory left it when it has no query to count down. -/
theorem cycleWith_dc_idle {d : Decoded} {s : State} (hr : s.status = .running)
    (h : (beforeDecode s).dc.queries = []) : (cycleWith defaultParams refIsHalt d s).dc = (beforeDecode s).dc := by
  have hafter : (beforeDecode s).dc = (afterMemory s).dc := unlessFatal_keeps State.dc (executeStage_dc _) _
  obtain ⟨-, v, hv, -, hdc⟩ := Backing.cycleWith_data (d := d) hr
  rw [hafter] at h ⊢
  rcases hdc with hdc | hdc
  · rw [hdc, hv]
  · rw [hdc, cacheTick_idle (c := .dc) (by rw [getCache_dc, hv]; exact h), hv]

/-- A quiet cycle, whatever Decode and Fetch do in it. -/
theorem Quiet.runs {s : State} (h : Quiet s) : ∃ t, step s = .next t ∧ Untouched s t ∧
    t.memwb = memWbOf s.exmem 0 ∧ t.exmem = bubbleExMem s.deex.kind s.deex.pc ∧ t.dcacheStalled = false ∧
    t.exHalted = false ∧ t.memHalted = false ∧ (Retires s → t.retiredCount = s.retiredCount + 1) ∧
    (¬Retires s → t.retiredCount = s.retiredCount) := by
  obtain ⟨n, hyes, hno, hbefore⟩ := h.beforeDecode_eq
  have hr := h.running
  obtain ⟨d, hd⟩ : ∃ d, d = refDecode s.ifde.word := ⟨_, rfl⟩
  refine ⟨_, FrontEnd.step_eq_refDecode s, ?_⟩
  rw [← hd]
  have hdc := cycleWith_dc_idle (d := d) hr (by rw [hbefore]; exact h.noQuery)
  have hpred := Prediction.cycleWith_pred (d := d) hr
  have hcount : (cycleWith defaultParams refIsHalt d s).retiredCount = n := by
    rw [Execution.cycleWith_eq_beforeDecode State.retiredCount hr, hbefore]
  refine ⟨⟨?_, ?_, ?_, ?_, ?_, ?_⟩, ?_, ?_, ?_, ?_, ?_, fun hret => hcount.trans (hyes hret),
    fun hret => hcount.trans (hno hret)⟩
  · rw [Execution.cycleWith_eq_beforeDecode State.regs hr, hbefore]
  · rw [Execution.cycleWith_eq_beforeDecode State.z hr, hbefore]
  · rw [Execution.cycleWith_eq_beforeDecode State.n hr, hbefore]
  · rw [Execution.cycleWith_eq_beforeDecode State.mem hr, hbefore]
  · rw [hdc, hbefore]
  · rw [hpred, hbefore]
  · rw [Execution.cycleWith_eq_beforeDecode State.memwb hr, hbefore]
  · rw [Execution.cycleWith_eq_beforeDecode State.exmem hr, hbefore]
  · rw [Execution.cycleWith_eq_beforeDecode State.dcacheStalled hr, hbefore]
    exact h.dcacheStalled
  · rw [Execution.cycleWith_eq_beforeDecode State.exHalted hr, hbefore]
    exact h.exHalted
  · rw [Execution.cycleWith_eq_beforeDecode State.memHalted hr, hbefore]
    exact h.memHalted

/-! ## A quiet cycle in which Decode has no word and Fetch raises nothing -/

/-- Decode has no word to take in this cycle, and nothing else can stop the machine. -/
structure Idling (s : State) : Prop extends Quiet s where
  deHalted : s.deHalted = false
  ifdeValid : s.ifde.valid = true
  noWord : s.ifde.squash = true ∨ s.ifde.flush = true ∨ s.ifde.memStall = true
  inBlock : crossesBlock defaultParams s.pc 4 = false
  cyclesLeft : Exceptions.CyclesLeft s.ic.queries

/-- Decode without a word sends a bubble (43_fetch_decode.md R169, R170). -/
theorem decodeStage_noWord {d : Decoded} {s : State} (hde : s.deHalted = false) (hdc : s.dcacheStalled = false)
    (hds : s.dataStalled = false) (hv : s.ifde.valid = true)
    (h : s.ifde.squash = true ∨ s.ifde.flush = true ∨ s.ifde.memStall = true) :
    ∃ k, isBubble k = true ∧ decodeStage d s = { s with deex := bubbleDeEx k s.ifde.pc } := by
  by_cases hsq : s.ifde.squash = true ∨ s.ifde.flush = true
  · exact ⟨_, rfl, decodeStage_squash hde hdc hds hv hsq⟩
  · obtain ⟨hs, hf⟩ := not_or.mp hsq
    rw [Bool.not_eq_true] at hs hf
    exact ⟨_, rfl, decodeStage_memStall hde hdc hds hv hs hf (by simpa [hs, hf] using h)⟩

/-- Fetch raises nothing for a word that lies in one block (40_cache.md R112). -/
theorem fetchStage_status {s : State} (hx : crossesBlock defaultParams s.pc 4 = false) :
    (fetchStage defaultParams refIsHalt s).status = s.status := by
  unfold fetchStage fetchOpen
  split_ifs
  · rfl
  · rfl
  rcases cacheRead_cases defaultParams .ic s.pc 4 s with
    ⟨hcross, -⟩ | ⟨-, q, -, e⟩ | ⟨-, -, i, l, -, e⟩ | ⟨-, -, -, e⟩
  · rw [hx] at hcross; cases hcross
  · rw [e]; rfl
  · rw [e]; simp [deliverWord]
  · rw [e]; simp [markFetchStall]

/-- After an idling cycle the machine runs on, with a bubble behind the bubble. -/
theorem Idling.step_running {s t : State} (h : Idling s) (hstep : step s = .next t) :
    t.status = .running ∧ t.deex.valid = true ∧ isBubble t.deex.kind = true := by
  obtain ⟨n, -, -, hbefore⟩ := h.toQuiet.beforeDecode_eq
  obtain ⟨⟨hr, hdc, -, -, hq, -⟩, hde, hv, hword, hx, hcycles⟩ := h
  have hrun : isFatal (beforeDecode s) = false := by rw [hbefore]; exact isFatal_running hr
  obtain ⟨k, hk, hdecode⟩ := decodeStage_noWord (d := refDecode s.ifde.word) (s := beforeDecode s)
    (by rw [hbefore]; exact hde) (by rw [hbefore]; exact hdc) (by rw [hbefore]) (by rw [hbefore]; exact hv)
    (by rw [hbefore]; exact hword)
  have hafter : FrontEnd.afterDecode s = { beforeDecode s with deex := bubbleDeEx k (beforeDecode s).ifde.pc } := by
    rw [FrontEnd.afterDecode, unlessFatal_ok hrun, hdecode]
  have hstatus : (FrontEnd.afterDecode s).status = .running := by rw [hafter, hbefore]; exact hr
  have hfetch : (FrontEnd.afterFetch s).status = .running := by
    rw [FrontEnd.afterFetch, unlessFatal_ok (isFatal_running hstatus),
      fetchStage_status (by rw [hafter, hbefore]; exact hx)]
    exact hstatus
  obtain ⟨hci, hcd⟩ := Exceptions.cyclesLeft_afterFetch hcycles (by
    rw [hq]
    exact fun q hm => absurd hm List.not_mem_nil)
  rw [FrontEnd.step_eq_afterFetch hr, unlessFatal_ok (isFatal_running hfetch)] at hstep
  obtain rfl := Host.Outcome.next.inj hstep
  have hdeex : (FrontEnd.afterFetch s).deex = bubbleDeEx k (beforeDecode s).ifde.pc := by
    rw [FrontEnd.afterFetch, unlessFatal_keeps State.deex (by simp), hafter]
  refine ⟨(Exceptions.cycleEnd_status hci hcd).trans hfetch, ?_, ?_⟩
  · rw [FrontEnd.cycleEnd_deex, hdeex]; rfl
  · rw [FrontEnd.cycleEnd_deex, hdeex]; exact hk

/-! ## The branch -/

/-- A branch's control record: no data access, no register and no flag to write (30_encoding.md R97, R98). -/
structure IsBranch (d : Decoded) : Prop where
  kind : d.kind = .control
  noLoad : d.mem.memRead = false
  noStore : d.mem.memWrite = false
  silent : d.wb = WbCtl.zero

/-- The state in which Execute finds the branch, as far as its outcome depends on it. -/
def issued (d : Decoded) (s : State) : State := { s with deex := deExOf d s }

/-- The next address as Execute finds it: the branch goes on to `PC` unless it was predicted (R199, R200). -/
def nextFetch (d : Decoded) (s : State) : Word :=
  if actualNext (issued d s) = s.ifde.predNext then s.pc else actualNext (issued d s)

/-- A correctly predicted branch goes on, and Fetch waits on for the miss behind it (R199). -/
theorem step_predicted {t : State} {k : Nat} (h : Execution.BranchAlone t) (hp : actualNext t = t.deex.predNext)
    (hw : FetchWaits t (k + 2)) (hq : t.dc.queries = []) :
    ∃ m, step t = .next
      { Execution.branchExecuted m t with
        controlStalled := false, deex := bubbleDeEx .memBubble t.ifde.pc
        ic := { t.ic with queries := [{ base := blockBase defaultParams t.pc, rem := k + 1 }] }
        cycleCount := t.cycleCount + 1 } := by
  obtain ⟨m, hbefore⟩ := h.beforeDecode_predicted hp
  obtain ⟨hr, hdc, hde, -, -⟩ := h.backEnd
  obtain ⟨w1, w2, w3, w4, w5, w6, w7⟩ := hw
  obtain ⟨d, hstep⟩ := step_eq_cycle t
  refine ⟨m, hstep.trans (congrArg _ (cycleWith_of hr hbefore (isFatal_running hr)
    (decodeStage_memStall (by exact hde) (by exact hdc) rfl (by exact w1) (by exact w3) (by exact w4) (by exact w2))
    (isFatal_running hr) (fetchStage_waits (k := k + 2) ⟨w1, w2, w3, w4, w5, w6, w7⟩ rfl) (isFatal_running hr) ?_))⟩
  exact cycleEnd_waits (isFatal_running hr) w7 hq

/-- With nothing older in the pipeline, no instruction reaches `MEMWB` in the cycle that resolves the branch. -/
theorem not_retires_after_resolution {t v : State} (h : Execution.BranchAlone t) (hstep : step t = .next v) :
    ¬Retires v := by
  obtain ⟨hr, hdc, -, hex, hmh⟩ := h.backEnd
  obtain ⟨m, hm, hhazard, hwb, hmemory⟩ :=
    cycleToMemory_idle (p := defaultParams) h.exmem h.memwb hdc hex hmh
  have hafter : (afterMemory t).memwb = m := by rw [afterMemory, hhazard, hwb, hmemory]
  have hv := DataMiss.step_eq_afterMemory State.memwb hr hstep (by simp) (by simp) (by simp) (by simp)
    (fun _ _ => rfl)
  rintro ⟨hvalid, hlive⟩
  rw [hv, hafter] at hvalid hlive
  rw [hm hvalid] at hlive
  cases hlive

/-- The cycle after Decode resolves the branch and leaves nothing to do but its way to Writeback. -/
theorem branch_resolves {s : State} {d : Decoded} (h : IssuesAlone s) (ha : s.ifde.pc.toNat % 4 = 0)
    (hd : IsBranch d) : ∃ v, runCycles 1 (cycleWith defaultParams refIsHalt d s) = .next v ∧ Idling v ∧
      ¬Retires v ∧ v.pc = nextFetch d s ∧ v.pred = Execution.trainedPred (issued d s) ∧
      v.exmem = exMemOf (issued d s) ∧
      v.regs = s.regs ∧ v.z = s.z ∧ v.n = s.n ∧ v.mem = s.mem ∧ v.dc = s.dc ∧
      v.retiredCount = s.retiredCount := by
  obtain ⟨e, m, he, hm, hdecode⟩ := aloneDecode h (d := d) (by rw [hd.kind]; exact nofun)
  obtain ⟨-, -, hb, -, -, ⟨-, hqd⟩, hx, -⟩ := h
  obtain ⟨hr, hdc, hde, hex, hmh⟩ := hb
  rw [hdecode]
  generalize ht : ({ s with
    dataStalled := false, exmem := e, memwb := m, deex := deExOf d s
    ifde := { s.ifde with valid := true, memStall := true, squash := false, flush := false, pc := s.pc }
    ic := { s.ic with queries := [{ base := blockBase defaultParams s.pc, rem := 9 }] }
    cycleCount := s.cycleCount + 1 } : State) = t
  have halone : Execution.BranchAlone t := by
    subst ht
    exact ⟨⟨hr, hdc, hde, hex, hmh⟩, he, hm, rfl, hd.kind⟩
  have hnext : actualNext t = actualNext (issued d s) := by subst ht; rfl
  have hpasses : passesThrough (exMemOf t) = true := by
    subst ht
    simp [passesThrough, exMemOf, outgoingMem, deExOf, hd.noLoad, hd.noStore]
  by_cases hp : actualNext t = t.deex.predNext
  · have hwaits : FetchWaits t (7 + 2) := by subst ht; exact ⟨rfl, rfl, rfl, rfl, rfl, hx, rfl⟩
    obtain ⟨m2, hstep⟩ := step_predicted halone hp hwaits (by subst ht; exact hqd)
    have hnot := not_retires_after_resolution halone hstep
    refine ⟨_, (DataMiss.runCycles_step hstep).trans (runCycles_zero _), ?_, hnot, ?_⟩
    · subst ht
      exact
        { running := hr, dcacheStalled := hdc, exHalted := hex, memHalted := hmh, noQuery := hqd
          deexValid := rfl, deexBubble := rfl, exmemValid := rfl, passes := hpasses
          silent := fun hyes => absurd hyes hnot
          deHalted := hde, ifdeValid := rfl, noWord := .inr (.inr rfl), inBlock := hx
          cyclesLeft := by simp [Exceptions.CyclesLeft] }
    · rw [hnext] at hp
      subst ht
      exact ⟨(if_pos hp).symm, rfl, rfl, rfl, rfl, rfl, rfl, rfl, rfl⟩
  · have hown : Execution.OnlyOwnFetch t := by subst ht; simp [Execution.OnlyOwnFetch]
    obtain ⟨m2, hstep⟩ := halone.step_mispredicted (by subst ht; rfl) hp hown (by subst ht; exact hqd)
    have hnot := not_retires_after_resolution halone hstep
    have haligned : (actualNext t).toNat % 4 = 0 := Invariant.actualNext_aligned (by subst ht; exact ha)
    refine ⟨_, (DataMiss.runCycles_step hstep).trans (runCycles_zero _), ?_, hnot, ?_⟩
    · have hblock := Backing.aligned_word_in_block haligned
      subst ht
      exact
        { running := hr, dcacheStalled := hdc, exHalted := hex, memHalted := hmh, noQuery := hqd
          deexValid := rfl, deexBubble := rfl, exmemValid := rfl, passes := hpasses
          silent := fun hyes => absurd hyes hnot
          deHalted := hde, ifdeValid := rfl, noWord := .inl rfl, inBlock := hblock
          cyclesLeft := by simp [Exceptions.CyclesLeft, Execution.branchRepaired] }
    · rw [hnext] at hp
      subst ht
      exact ⟨(if_neg hp).symm, rfl, rfl, rfl, rfl, rfl, rfl, rfl, rfl⟩

/-- The whole run of a branch alone in the pipeline. -/
theorem branch_alone {s : State} {i : Instr} (h : IssuesAlone s) (ha : s.ifde.pc.toNat % 4 = 0)
    (hd : IsBranch (recordOf i)) :
    ∃ t v u, exec i s = .next t ∧ runCycles 1 t = .next v ∧ runCycles 2 v = .next u ∧
      v.pc = nextFetch (recordOf i) s ∧ v.pred = Execution.trainedPred (issued (recordOf i) s) ∧
      RegsUnchanged s u ∧ FlagsUnchanged s u ∧ u.mem = s.mem ∧ u.dc = s.dc ∧ u.pred = v.pred ∧
      u.retiredCount = s.retiredCount + 1 := by
  obtain ⟨v, hrun, hidle, hnot, hpc, hpred, hexmem, hregs, hz, hn, hmem, hdc, hcount⟩ := branch_resolves h ha hd
  obtain ⟨w, hw, hvw, hmemwb, hwx, hwdc, hwex, hwmh, -, hwcount⟩ := hidle.toQuiet.runs
  obtain ⟨hwr, hwv, hwk⟩ := hidle.step_running hw
  have hquiet : Quiet w :=
    { running := hwr, dcacheStalled := hwdc, exHalted := hwex, memHalted := hwmh
      noQuery := by rw [hvw.dc]; exact hidle.noQuery
      deexValid := hwv, deexBubble := hwk
      exmemValid := by rw [hwx]; rfl
      passes := by rw [hwx, passesThrough]; simp [bubbleExMem, hidle.deexBubble]
      silent := fun _ => by rw [hmemwb, hexmem]; exact hd.silent }
  obtain ⟨u, hu, hwu, -, -, -, -, -, hucount, -⟩ := hquiet.runs
  have hretires : Retires w := by
    rw [Retires, hmemwb, hexmem]
    exact ⟨rfl, show isBubble (recordOf i).kind = false by rw [hd.kind]; rfl⟩
  obtain ⟨rregs, rz, rn, rmem, rdc, rpred⟩ := hvw.trans hwu
  exact ⟨_, v, u, exec_eq_issue i s, hrun,
    (DataMiss.runCycles_step hw).trans ((DataMiss.runCycles_step hu).trans (runCycles_zero u)), hpc, hpred,
    readReg_congr (rregs.trans hregs), ⟨rz.trans hz, rn.trans hn⟩, rmem.trans hmem, rdc.trans hdc, rpred,
    by rw [hucount hretires, hwcount hnot, hcount]⟩

/-! ## The instructions -/

theorem isBranch_branchRecord (k : BrKind) (cc : Cc) (offset : Word) : IsBranch (branchRecord k cc offset) :=
  ⟨rfl, rfl, rfl, rfl⟩

theorem isBranch_compareBranchRecord (k : BrKind) (rt : Reg) (offset : Word) :
    IsBranch (compareBranchRecord k rt offset) :=
  ⟨rfl, rfl, rfl, rfl⟩

/-- A branch, conditional or not, by whether it is taken. -/
theorem branch_completes {s : State} {i : Instr} {taken : Bool} {offset : Word} (h : IssuesAlone s)
    (ha : s.ifde.pc.toNat % 4 = 0) (hd : IsBranch (recordOf i)) (hoff : (recordOf i).offset = offset)
    (ht : branchTaken (issued (recordOf i) s) = taken) :
    ∃ t v u, exec i s = .next t ∧ runCycles 1 t = .next v ∧ runCycles 2 v = .next u ∧
      v.pc = (if (if taken then s.ifde.pc + 4 * offset else s.ifde.pc + 4) = s.ifde.predNext then s.pc
        else if taken then s.ifde.pc + 4 * offset else s.ifde.pc + 4) ∧
      PredictorTrained s.pred v.pred (decide ((recordOf i).ex.brKind ≠ .uncond)) taken s.ifde.pc
        (s.ifde.pc + 4 * offset) ∧
      RegsUnchanged s u ∧ FlagsUnchanged s u ∧ u.mem = s.mem ∧ u.dc = s.dc ∧ u.pred = v.pred ∧
      u.retiredCount = s.retiredCount + 1 := by
  obtain ⟨t, v, u, hexec, hrun, hrest, hpc, hpred, hframe⟩ := branch_alone h ha hd
  have hnext : actualNext (issued (recordOf i) s) = if taken then s.ifde.pc + 4 * offset else s.ifde.pc + 4 := by
    rw [actualNext, ht, ← hoff]
    rfl
  have htrained := Execution.trainedPred_trained (issued (recordOf i) s)
  rw [← hpred, ht] at htrained
  rw [nextFetch, hnext] at hpc
  subst hoff
  exact ⟨t, v, u, hexec, hrun, hrest, hpc, htrained, hframe⟩

/-- Settles O35: `B` is always taken and no conditional branch. -/
theorem branchCompletes : Obligations.BranchCompletes := by
  intro s imm26 h ha
  exact branch_completes (i := .b imm26) (taken := true) h ha (isBranch_branchRecord ..) rfl rfl

/-- A conditional branch, with the next address named. -/
theorem conditional_completes {s : State} {i : Instr} {taken : Bool} {offset : Word} (h : IssuesAlone s)
    (ha : s.ifde.pc.toNat % 4 = 0) (hd : IsBranch (recordOf i)) (hk : (recordOf i).ex.brKind ≠ .uncond)
    (hoff : (recordOf i).offset = offset) (ht : branchTaken (issued (recordOf i) s) = taken) :
    ∃ t v u next, exec i s = .next t ∧ runCycles 1 t = .next v ∧ runCycles 2 v = .next u ∧
      next = (if taken then s.ifde.pc + 4 * offset else s.ifde.pc + 4) ∧
      v.pc = (if next = s.ifde.predNext then s.pc else next) ∧
      PredictorTrained s.pred v.pred true taken s.ifde.pc (s.ifde.pc + 4 * offset) ∧
      RegsUnchanged s u ∧ FlagsUnchanged s u ∧ u.mem = s.mem ∧ u.dc = s.dc ∧ u.pred = v.pred ∧
      u.retiredCount = s.retiredCount + 1 := by
  obtain ⟨t, v, u, hexec, hrun, hrest, hpc, htrained, hframe⟩ := branch_completes h ha hd hoff ht
  rw [decide_eq_true hk] at htrained
  exact ⟨t, v, u, _, hexec, hrun, hrest, rfl, hpc, htrained, hframe⟩

/-- Settles O36: the six conditions on the architectural flags, since Decode has forwarded none. -/
theorem condBranchCompletes : Obligations.CondBranchCompletes := by
  intro s imm19 h ha ic hic
  simp only [List.mem_cons, List.not_mem_nil, or_false] at hic
  rcases hic with rfl | rfl | rfl | rfl | rfl | rfl
  · exact conditional_completes h ha (isBranch_branchRecord .cond .eq (sext imm19)) nofun rfl rfl
  · exact conditional_completes h ha (isBranch_branchRecord .cond .ne (sext imm19)) nofun rfl rfl
  · exact conditional_completes h ha (isBranch_branchRecord .cond .ge (sext imm19)) nofun rfl rfl
  · exact conditional_completes h ha (isBranch_branchRecord .cond .lt (sext imm19)) nofun rfl rfl
  · exact conditional_completes h ha (isBranch_branchRecord .cond .gt (sext imm19)) nofun rfl rfl
  · exact conditional_completes h ha (isBranch_branchRecord .cond .le (sext imm19)) nofun rfl rfl

/-- Settles O37: the two tests of the register that Decode read. -/
theorem compareBranchCompletes : Obligations.CompareBranchCompletes := by
  intro s rt imm19 h ha ic hic
  simp only [List.mem_cons, List.not_mem_nil, or_false] at hic
  rcases hic with rfl | rfl
  · refine conditional_completes h ha (isBranch_compareBranchRecord .cbz rt (sext imm19)) nofun rfl ?_
    show (readReg s rt == 0) = decide (readReg s rt = 0)
    rfl
  · refine conditional_completes h ha (isBranch_compareBranchRecord .cbnz rt (sext imm19)) nofun rfl ?_
    show (readReg s rt != 0) = decide (readReg s rt ≠ 0)
    rw [bne, beq_eq_decide, decide_not]

end Sys2Proof.Machine.Completion
end
